-- ==== Sys2Proof/Word.lean ====
section
/-! DEFINITION. The two word types of PPCB (00_scope.md R7, R8): bytes of the buffer memory and 32-bit registers. -/

namespace Sys2Proof

/-- A byte, unsigned, 0 to 255 (R8). -/
abbrev Byte := BitVec 8

/-- The value of a register, unsigned, 32 bits (R7). -/
abbrev Word := BitVec 32

end Sys2Proof
end

