-- ==== Sys2Proof/Config.lean ====
section
/-! DEFINITION. The parameters of 00_scope.md R6 and the free values.

OPEN parameters and free values are opaque constants without a body: no proof can see what they are. A parameter with a
default (MAX_DIM, SIG, the tags) is a field of State that reset sets to its default and no step changes (log 2, log 3). -/

namespace Sys2Proof

/-- The byte strings a container is read by (00_scope.md R6; 93 ID21, ID22): the signature SIG and the four tags. They are
parameters of the machine; every command that looks at a container takes them as an argument (log 3). -/
structure ContainerFormat where
  /-- SIG (R82), 8 bytes. -/
  sig : List Byte
  /-- TAG_HDR (R85), 4 bytes. -/
  tagHdr : List Byte
  /-- TAG_DAT (R85), 4 bytes. -/
  tagDat : List Byte
  /-- TAG_END (R85), 4 bytes. -/
  tagEnd : List Byte
  /-- TAG_PAD (R85), 4 bytes. -/
  tagPad : List Byte
  deriving DecidableEq, Repr

namespace Config

/-- Free: which size the buffer memory has (R6 leaves MEM_BYTES OPEN; log 1). -/
opaque memBytesFree : Nat

/-- MEM_BYTES (R6): some integer with `16 <= MEM_BYTES <= 2^31`, which one is not known (log 1).
Every size of that range is the value of some `memBytesFree`. -/
def memBytes : Nat := memBytesFree % (2 ^ 31 - 15) + 16

/-- MAX_DIM (R6, R24), PPK's literal (log 2). -/
def maxDim : Nat := 32768

/-- REG_BASE (R6, R50): OPEN, the host-bus address of the 256-byte register window (log 4). -/
opaque regBase : Nat

/-- Free: where the platform puts the buffer aperture (log 4). -/
opaque memBaseFree : Nat

/-- MEM_BASE (R6, R50): OPEN. R66 says the register window and the aperture do not overlap, so a free
choice that would overlap is replaced by the address after the window (log 4). -/
def memBase : Nat :=
  if memBaseFree + memBytes ≤ regBase ∨ regBase + 256 ≤ memBaseFree then memBaseFree else regBase + 256

/-- SIG and the tags at the values of R6: TAG_PAD is "plEN", which PPK fixes; the others are the defaults, the PNG signature,
"IHDR", "IDAT" and "IEND" (log 3). -/
def format : ContainerFormat where
  sig := [0x89, 0x50, 0x4E, 0x47, 0x0D, 0x0A, 0x1A, 0x0A]
  tagHdr := [0x49, 0x48, 0x44, 0x52]
  tagDat := [0x49, 0x44, 0x41, 0x54]
  tagEnd := [0x49, 0x45, 0x4E, 0x44]
  tagPad := [0x70, 0x6C, 0x45, 0x4E]

/-- SENTINEL (R6, R80): the value of every pixel's fourth byte. -/
def sentinel : Byte := 255

/-- Free: what the byte at each buffer address holds at power-on (70_reset_and_hazards.md R221; 93 ID1; log 5). -/
opaque powerOnByte : Nat → Byte

/-- Free: the value of the n-th draw (20_memory.md R61, 60_exceptions.md R197, 70 R223; 93 ID2 to ID4; log 6). -/
opaque freeByte : Nat → Byte

end Config

end Sys2Proof
end

