-- ==== Sys2Proof/Syntax.lean ====
section
/-! DEFINITION. The instructions of PPCB: one constructor per row of spec/opcode_table.json (00_scope.md R2). -/

namespace Sys2Proof

/-- PPCB's instructions are of two kinds (R2): the eight command words of 30_encoding.md R71 and the five
filter-type bytes of R76. None has an operand field: a command takes its operands from the acceptance
snapshot (R74), a filter type from the scanline it heads (R75). -/
inductive Instr where
  /-- 0x00000001 MAP_B2G, bytes to grid (40_mapper.md R100). -/
  | mapB2g
  /-- 0x00000002 MAP_G2B, grid to bytes (40_mapper.md R105). -/
  | mapG2b
  /-- 0x00000011 FLT_RECON, scanline reconstruction (41_filter.md R120). -/
  | fltRecon
  /-- 0x00000021 CHK_SCAN, list the chunks (42_chunk.md R157). -/
  | chkScan
  /-- 0x00000022 CHK_HDR, width and height (42_chunk.md R158). -/
  | chkHdr
  /-- 0x00000023 CHK_IDAT, concatenate the data chunks (42_chunk.md R160). -/
  | chkIdat
  /-- 0x00000024 CHK_PLEN, read the pad chunk (42_chunk.md R162). -/
  | chkPlen
  /-- 0x00000025 CHK_INSPAD, insert the pad chunk (42_chunk.md R164). -/
  | chkInspad
  /-- filter byte 0, None (41_filter.md R123). -/
  | ftNone
  /-- filter byte 1, Sub (41_filter.md R124). -/
  | ftSub
  /-- filter byte 2, Up (41_filter.md R125). -/
  | ftUp
  /-- filter byte 3, Average (41_filter.md R126). -/
  | ftAverage
  /-- filter byte 4, Paeth (41_filter.md R127). -/
  | ftPaeth
  deriving DecidableEq, Repr

end Sys2Proof
end

