-- ==== Sys2Proof/WellFormed.lean ====
section
/-! DEFINITION. Well-formedness: of an encoded instruction (30_encoding.md R70 to R73, R75 to R77), of an
instruction, and of the tag parameters (00_scope.md R6). -/

namespace Sys2Proof

/-- An encoded instruction: a 32-bit command word or an 8-bit filter-type byte (R73). -/
inductive Code where
  | command (w : Word)
  | filter (b : Byte)
  deriving DecidableEq, Repr

/-- OPC, bits 7:0 of a command word (R70). -/
def opcField (w : Word) : Byte := w.extractLsb' 0 8

/-- RSV, bits 31:8 of a command word (R70). -/
def rsvField (w : Word) : BitVec 24 := w.extractLsb' 8 24

/-- The opcodes R71 assigns. -/
def assignedOpcodes : List Byte := [0x01, 0x02, 0x11, 0x21, 0x22, 0x23, 0x24, 0x25]

/-- A command word is well formed when RSV = 0 and OPC is assigned (R70 to R72); a filter-type byte when it is
0 to 4 (R76, R77). -/
def Code.wellFormed : Code → Bool
  | .command w => rsvField w == 0 && assignedOpcodes.contains (opcField w)
  | .filter b => b.toNat ≤ 4

/-- Every instruction is well formed: none has an operand field that could be out of range (R70, R74, R75). -/
def Instr.wellFormed : Instr → Bool
  | .mapB2g | .mapG2b | .fltRecon | .chkScan | .chkHdr | .chkIdat | .chkPlen | .chkInspad => true
  | .ftNone | .ftSub | .ftUp | .ftAverage | .ftPaeth => true

/-- Four tags are admissible when each is 4 bytes and they are pairwise distinct (R6). -/
def tagsWellFormed (hdr dat fin pad : List Byte) : Bool :=
  [hdr, dat, fin, pad].all (fun t => t.length == 4) &&
    hdr != dat && hdr != fin && hdr != pad && dat != fin && dat != pad && fin != pad

/-- SIG and the tags are admissible: SIG is 8 bytes, and the tags are as R6 says. -/
def ContainerFormat.wellFormed (f : ContainerFormat) : Bool :=
  f.sig.length == 8 && tagsWellFormed f.tagHdr f.tagDat f.tagEnd f.tagPad

end Sys2Proof
end

