-- ==== Sys2Proof/Decode.lean ====
section
/-! DEFINITION. The decoder and the encoder (30_encoding.md R70 to R77, opcode_table.json). -/

namespace Sys2Proof

/-- Why the decoder rejects. -/
inductive Reject where
  /-- R72: RSV is not 0 or OPC is not assigned. -/
  | illegalCommand (w : Word)
  /-- R77: a filter-type byte of 5 to 255. -/
  | invalidFilter (b : Byte)
  deriving DecidableEq, Repr

/-- The opcode map of R71: OPC and the command it names. -/
def commandTable : List (Byte × Instr) :=
  [(0x01, .mapB2g), (0x02, .mapG2b),
   (0x11, .fltRecon),
   (0x21, .chkScan), (0x22, .chkHdr), (0x23, .chkIdat), (0x24, .chkPlen), (0x25, .chkInspad)]

/-- The filter-type map of R76: the whole byte is the type code (R75). -/
def filterTable : List (Byte × Instr) :=
  [(0, .ftNone), (1, .ftSub), (2, .ftUp), (3, .ftAverage), (4, .ftPaeth)]

/-- The row of an encoding table whose code is `b`. -/
def lookupCode (table : List (Byte × Instr)) (b : Byte) : Option Instr :=
  (table.find? (fun r => r.1 == b)).map (fun r => r.2)

/-- Decode a command word (R70 to R72). -/
def decodeCommand (w : Word) : Except Reject Instr :=
  if rsvField w == 0 then
    match lookupCode commandTable (opcField w) with
    | some i => .ok i
    | none => .error (.illegalCommand w)
  else .error (.illegalCommand w)

/-- Decode a filter-type byte (R75 to R77). -/
def decodeFilter (b : Byte) : Except Reject Instr :=
  match lookupCode filterTable b with
  | some i => .ok i
  | none => .error (.invalidFilter b)

/-- Decode either kind of encoded instruction. -/
def decode : Code → Except Reject Instr
  | .command w => decodeCommand w
  | .filter b => decodeFilter b

/-- The encoding of each instruction (R71, R76). -/
def encode : Instr → Code
  | .mapB2g => .command 0x00000001
  | .mapG2b => .command 0x00000002
  | .fltRecon => .command 0x00000011
  | .chkScan => .command 0x00000021
  | .chkHdr => .command 0x00000022
  | .chkIdat => .command 0x00000023
  | .chkPlen => .command 0x00000024
  | .chkInspad => .command 0x00000025
  | .ftNone => .filter 0x00
  | .ftSub => .filter 0x01
  | .ftUp => .filter 0x02
  | .ftAverage => .filter 0x03
  | .ftPaeth => .filter 0x04

/-- The encoded instruction that `nbits` bits of the opcode table number `w` stand for: a command word for 32 bits,
a filter-type byte for 8 (R73); no other length exists. -/
def tableCode (nbits w : Nat) : Option Code :=
  if nbits = 32 ∧ w < 2 ^ 32 then some (.command (BitVec.ofNat 32 w))
  else if nbits = 8 ∧ w < 2 ^ 8 then some (.filter (BitVec.ofNat 8 w))
  else none

/-- The instruction the decoder reads from a row's bits, numbered as opcode_table.json numbers them. -/
def decodeTableWord (nbits w : Nat) : Option Instr :=
  match tableCode nbits w with
  | some c => (decode c).toOption
  | none => none

end Sys2Proof
end

