-- ==== Sys2Proof/Machine/State.lean ====
section
/-! DEFINITION. The state of PPCB (10_state.md), the data the machine passes around, the reasons a step can stop
and the state after power-on reset. -/

namespace Sys2Proof.Machine

/-- The error codes of 60_exceptions.md R190, in the order of their numbers 0 to 14. Codes 15 to 255 do not exist. -/
inductive ErrCode where
  | none
  | badSignature
  | truncatedChunk
  | missingEndMarker
  | invalidFilter
  | missingHeader
  | missingPayload
  /-- Code 7 belongs to host software: PPCB never raises it (R204). -/
  | decompressionFailure
  | illegalCommand
  | shortField
  | badPadLength
  | shortScanlineData
  | dstOverflow
  | regionRange
  | regionOverlap
  deriving DecidableEq, Repr

/-- What `raise <ERROR>(info)` carries (00_scope.md R13): the error code and the value of ERR_INFO. -/
structure Failure where
  code : ErrCode
  info : Word
  deriving DecidableEq, Repr

/-- What the sequencer is doing (10_state.md R43). STATUS.BUSY is 1 exactly when it is not idle (R27; log 10). -/
inductive Phase where
  /-- No command in flight (R49). -/
  | idle
  /-- A command has been accepted (R42) and has not run yet. -/
  | command
  /-- FLT_RECON has passed its checks and walks its rows (41_filter.md R120). -/
  | rows
  deriving DecidableEq, Repr

/-- What the sequencer latches at acceptance (R42): the command word and the snapshot of the operand registers. -/
structure Latch where
  word : Word
  srcAddr : Word
  srcLen : Word
  dstAddr : Word
  dstCap : Word
  width : Word
  height : Word
  padLen : Word
  deriving DecidableEq, Repr

/-- The latch of an idle sequencer: nothing is latched (R49, R44), written as zeros (log 10). -/
def Latch.empty : Latch := ⟨0, 0, 0, 0, 0, 0, 0, 0⟩

/-- The registers of 10_state.md R21, by name. -/
inductive Reg where
  | id | memSize | maxDim | ctrl | cmd | status | errCode | errInfo
  | srcAddr | srcLen | dstAddr | dstCap | dstLen | width | height | padLen | chunkCount
  deriving DecidableEq, Repr

/-- The direction of a host access (30_encoding.md R91). -/
inductive Dir where
  | read
  | write
  deriving DecidableEq, Repr

/-- The width of a host access. 16 bits is a width no PPCB access has (20_memory.md R52, R54). -/
inductive Width where
  | w8
  | w16
  | w32
  deriving DecidableEq, Repr

/-- What a host access addresses (R50, R91): a byte offset in the 256-byte register window, or a byte offset from
MEM_BASE in the buffer aperture. -/
inductive Target where
  | reg (offset : BitVec 8)
  | mem (addr : Nat)
  deriving DecidableEq, Repr

/-- One host bus transaction (R91). `data` is used by a write; an 8-bit write carries its byte in bits 7:0. -/
structure Txn where
  dir : Dir
  target : Target
  width : Width
  data : Word
  deriving DecidableEq, Repr

/-- What the host does at one moment: a bus transaction, or taking the interrupt (60_exceptions.md R199). -/
inductive HostEvent where
  | access (t : Txn)
  | interrupt
  deriving DecidableEq, Repr

/-- An event of the host still to come, with the number of sequencer steps that go before it while a command is in
flight (log 8). -/
structure Pending where
  after : Nat
  event : HostEvent
  deriving DecidableEq, Repr

/-- The result registers (10_state.md R47), each with the value a host read of it returns instead of the one it holds, if
there is such a value (20_memory.md R60; log 23). -/
structure OldResults where
  dstLen : Option Word
  width : Option Word
  height : Option Word
  padLen : Option Word
  chunkCount : Option Word
  deriving DecidableEq, Repr

/-- Every result register reads as it stands. -/
def OldResults.none : OldResults := ⟨Option.none, Option.none, Option.none, Option.none, Option.none⟩

/-- A region of the buffer memory (00_scope.md, glossary): `[addr, addr + len)`, computed exactly (R51). -/
structure Region where
  addr : Nat
  len : Nat
  deriving DecidableEq, Repr

/-- What the host port answers (R52 to R54). -/
inductive Response where
  /-- A read's value, an 8-bit read's byte zero-extended. -/
  | data (v : Word)
  /-- A write was taken, dropped or ignored: the bus tells the three no apart (log 19). -/
  | ack
  /-- The bus error response of R52 and R54: the access changed nothing. -/
  | busError
  deriving DecidableEq, Repr

/-- The bytes of the buffer memory written since power-on, as (address, byte) pairs in strictly rising order of
address (R45, R221). An address that is not listed has not been written (log 5). -/
abbrev Memory := List Host.Cell

/-- The state of PPCB (10_state.md R21, R27, R43, R45). -/
structure State where
  /-- ID (R22). -/
  id : Word
  /-- MEM_SIZE (R23). -/
  memSize : Word
  /-- MAXDIM (R24). -/
  maxDim : Word
  /-- CTRL.IRQ_EN (R25). -/
  irqEn : Bool
  /-- CMD: the last accepted word (R26). -/
  cmd : Word
  /-- STATUS.DONE (R27). -/
  done : Bool
  /-- STATUS.ERR (R27). -/
  err : Bool
  /-- STATUS.OVR (R27, R202). -/
  ovr : Bool
  /-- ERR_CODE (R28). -/
  errCode : ErrCode
  /-- ERR_INFO (R29). -/
  errInfo : Word
  /-- SRC_ADDR (R30). -/
  srcAddr : Word
  /-- SRC_LEN (R31). -/
  srcLen : Word
  /-- DST_ADDR (R32). -/
  dstAddr : Word
  /-- DST_CAP (R33). -/
  dstCap : Word
  /-- DST_LEN (R34). -/
  dstLen : Word
  /-- WIDTH (R35). -/
  width : Word
  /-- HEIGHT (R36). -/
  height : Word
  /-- PAD_LEN (R37). -/
  padLen : Word
  /-- CHUNK_COUNT (R38). -/
  chunkCount : Word
  /-- The sequencer's work (R43); STATUS.BUSY is `phase ≠ idle`. -/
  phase : Phase
  /-- The latched command word and operand snapshot (R42). -/
  latch : Latch
  /-- The current row of a reconstruction (R43, R120). -/
  row : Nat
  /-- The buffer memory (R45). -/
  mem : Memory
  /-- The parameters SIG, TAG_HDR, TAG_DAT, TAG_END and TAG_PAD (00_scope.md R6): no register, and no step changes them
  (log 3). -/
  format : ContainerFormat
  /-- What the result registers read as until the host has observed BUSY = 0: the values from before the acceptance of the
  last command (20_memory.md R60; log 23). -/
  old : OldResults
  /-- The destination regions of the commands accepted since the host last observed BUSY = 0, without the bytes the host has
  written since: a host read of their bytes returns any value (R60, R225, R69; log 23). -/
  unseen : List Region
  /-- No host access has been made since the last acceptance, and no interrupt taken: the next access is the one R42 says
  observes BUSY = 1 (10_state.md R42; log 22). -/
  justAccepted : Bool
  /-- The model's: the host's events still to come (log 8). -/
  host : List Pending
  /-- The model's: what the host port has answered, newest first (log 8). -/
  responses : List Response
  /-- The model's: how many free values have been drawn (log 6). -/
  draws : Nat
  deriving DecidableEq, Repr

/-- Why the machine stops with a fault. -/
inductive Fault where
  /-- Raised by the row operations of Filter.lean when a row's bytes do not lie in the buffer memory. R51 says no
  command forms such an address, and no state of the invariant reaches it (log 13). Safe: it stops where the
  hardware would not be. -/
  | outsideMemory (addr : Nat)
  deriving DecidableEq, Repr

/-- Why an instruction is refused. -/
inductive Refusal where
  /-- Raised by an arm of `exec` whose instruction has no meaning; no arm is left. Safe. -/
  | notModelled (mnemonic : String)
  deriving DecidableEq, Repr

/-- One chunk the parse found (42_chunk.md R151): the offset of its length field in the container, its length and
its 4 tag bytes. -/
structure Chunk where
  offset : Nat
  length : Nat
  tag : List Byte
  deriving DecidableEq, Repr

/-- What a successful command commits (10_state.md R41, R47): the bytes it writes from DST_ADDR on, and the result
registers it writes; `none` leaves a register as it is. -/
structure Commit where
  out : List Byte := []
  dstLen : Option Word := none
  width : Option Word := none
  height : Option Word := none
  padLen : Option Word := none
  chunkCount : Option Word := none
  deriving DecidableEq, Repr

/-- Who moves in a step. -/
inductive Turn where
  /-- No command in flight and no host event to come: PPCB runs nothing (70_reset_and_hazards.md R220). -/
  | nobody
  /-- The host's next event happens; `rest` come after it. -/
  | host (p : Pending) (rest : List Pending)
  /-- The sequencer makes its next step. -/
  | sequencer
  deriving DecidableEq, Repr

/-- What the sequencer has before it. -/
inductive Fetched where
  /-- The latched word, or the current row's filter byte, decodes to this instruction. -/
  | instr (i : Instr)
  /-- The latched word is illegal (30_encoding.md R72). -/
  | illegal (w : Word)
  /-- The current row's filter byte is 5 to 255 (R77). -/
  | badFilter
  /-- Every row has been reconstructed. -/
  | rowsDone
  deriving DecidableEq, Repr

/-- The machine right after power-on reset (70_reset_and_hazards.md R220, R221; 10_state.md R21, R49): ID, MEM_SIZE and
MAXDIM hold their constants, every other register is 0, the sequencer is idle, no buffer byte is written; SIG and the tags
stand at the defaults of R6 (log 3). No command has
been accepted, so nothing is left for the host to observe (log 23). The three model's own fields start empty (log 6, log 8). -/
def State.reset : State where
  id := 0x50504342
  memSize := BitVec.ofNat 32 Config.memBytes
  maxDim := BitVec.ofNat 32 Config.maxDim
  irqEn := false
  cmd := 0
  done := false
  err := false
  ovr := false
  errCode := .none
  errInfo := 0
  srcAddr := 0
  srcLen := 0
  dstAddr := 0
  dstCap := 0
  dstLen := 0
  width := 0
  height := 0
  padLen := 0
  chunkCount := 0
  phase := .idle
  latch := Latch.empty
  row := 0
  mem := []
  format := Config.format
  old := OldResults.none
  unseen := []
  justAccepted := false
  host := []
  responses := []
  draws := 0

end Sys2Proof.Machine
end

