-- ==== Sys2Proof/Machine/Operands.lean ====
section
/-! DEFINITION. Operands: the arithmetic of 00_scope.md R9 to R11, the acceptance snapshot (10_state.md R42, R47), the
region operands and their checks (60_exceptions.md R192, R193), and the register map (10_state.md R21). -/

namespace Sys2Proof.Machine

/-- `sat32(v)` of R10. -/
def sat32 (v : Nat) : Word := BitVec.ofNat 32 (min v 0xFFFFFFFF)

/-- `ceil(a/b)` of R9. -/
def ceilDiv (a b : Nat) : Nat := (a + b - 1) / b

/-- The big-endian value of four bytes, the first the most significant (R11, 20_memory.md R55). -/
def be32 (b0 b1 b2 b3 : Byte) : Nat :=
  b0.toNat * 2 ^ 24 + b1.toNat * 2 ^ 16 + b2.toNat * 2 ^ 8 + b3.toNat

/-- `be32` of the four bytes of a byte string at offset `p` (R11). -/
def be32At (c : List Byte) (p : Nat) : Nat :=
  be32 (c.getD p 0) (c.getD (p + 1) 0) (c.getD (p + 2) 0) (c.getD (p + 3) 0)

/-- `bytes_be32(v)` of R11: v[31:24], v[23:16], v[15:8], v[7:0]. -/
def bytesBe32 (v : Word) : List Byte :=
  [v.extractLsb' 24 8, v.extractLsb' 16 8, v.extractLsb' 8 8, v.extractLsb' 0 8]

/-- The bus word of four buffer bytes, the first on bits 7:0 (20_memory.md R53). -/
def laneWord (b0 b1 b2 b3 : Byte) : Word := b3 ++ b2 ++ b1 ++ b0

/-- The four buffer bytes of a bus word, bits 7:0 first (R53). -/
def laneBytes (v : Word) : List Byte :=
  [v.extractLsb' 0 8, v.extractLsb' 8 8, v.extractLsb' 16 8, v.extractLsb' 24 8]

/-- What acceptance latches for the word `w` (10_state.md R42): `w` and the operand registers as they stand. -/
def State.snapshot (s : State) (w : Word) : Latch where
  word := w
  srcAddr := s.srcAddr
  srcLen := s.srcLen
  dstAddr := s.dstAddr
  dstCap := s.dstCap
  width := s.width
  height := s.height
  padLen := s.padLen

/-- The values the result registers hold (R41, R47). -/
def State.results (s : State) : OldResults where
  dstLen := some s.dstLen
  width := some s.width
  height := some s.height
  padLen := some s.padLen
  chunkCount := some s.chunkCount

/-- The destination region of a latch. -/
def Latch.dstRegion (o : Latch) : Region := ⟨o.dstAddr.toNat, o.dstCap.toNat⟩

/-- The byte at address `a` belongs to the region (20_memory.md R57). -/
def Region.contains (r : Region) (a : Nat) : Bool := decide (r.addr ≤ a) && decide (a < r.addr + r.len)

/-- The region without the bytes `[a, a + n)`: what lies below them and what lies above, where there is anything. -/
def Region.without (r : Region) (a n : Nat) : List Region :=
  let top := max r.addr (a + n)
  [⟨r.addr, min (r.addr + r.len) a - r.addr⟩, ⟨top, r.addr + r.len - top⟩].filter (fun g => g.len != 0)

/-- The region `(addr, len)` lies in a buffer memory of `size` bytes (R192), computed exactly. -/
def inRange (size addr len : Nat) : Bool := len == 0 || decide (addr + len ≤ size)

/-- Two regions share a byte (R193). -/
def regionsOverlap (sa sl da dl : Nat) : Bool :=
  decide (0 < sl) && decide (0 < dl) && decide (sa < da + dl) && decide (da < sa + sl)

/-- The source region of a latch lies in the buffer memory (R192). -/
def Latch.srcInRange (o : Latch) (size : Nat) : Bool := inRange size o.srcAddr.toNat o.srcLen.toNat

/-- The destination region of a latch lies in the buffer memory (R192). -/
def Latch.dstInRange (o : Latch) (size : Nat) : Bool := inRange size o.dstAddr.toNat o.dstCap.toNat

/-- The source and destination regions of a latch share a byte (R193): DST_CAP counts, not the output length. -/
def Latch.overlap (o : Latch) : Bool :=
  regionsOverlap o.srcAddr.toNat o.srcLen.toNat o.dstAddr.toNat o.dstCap.toNat

/-- `CheckRegions(src)`, for the commands without output (R192): the failure, if there is one. -/
def checkSource (size : Nat) (o : Latch) : Option Failure :=
  if o.srcInRange size then none else some ⟨.regionRange, 0⟩

/-- `CheckRegions(src, dst)`, for the commands with output (R192, R193, R195): the first failure, if there is one. -/
def checkRegions (size : Nat) (o : Latch) : Option Failure :=
  if !o.srcInRange size then some ⟨.regionRange, 0⟩
  else if !o.dstInRange size then some ⟨.regionRange, 1⟩
  else if o.overlap then some ⟨.regionOverlap, 0⟩
  else none

/-- The register at an offset of the register window (R21); `none` at a reserved offset (R39). Offsets that are no
multiple of 4 are refused before this map is asked (20_memory.md R54). -/
def regOfOffset (offset : BitVec 8) : Option Reg :=
  match offset.toNat with
  | 0x00 => some .id
  | 0x04 => some .memSize
  | 0x08 => some .maxDim
  | 0x0C => some .ctrl
  | 0x10 => some .cmd
  | 0x14 => some .status
  | 0x18 => some .errCode
  | 0x1C => some .errInfo
  | 0x20 => some .srcAddr
  | 0x24 => some .srcLen
  | 0x28 => some .dstAddr
  | 0x2C => some .dstCap
  | 0x30 => some .dstLen
  | 0x34 => some .width
  | 0x38 => some .height
  | 0x3C => some .padLen
  | 0x40 => some .chunkCount
  | _ => none

/-- The offset of a register (R21). -/
def Reg.offset : Reg → BitVec 8
  | .id => 0x00
  | .memSize => 0x04
  | .maxDim => 0x08
  | .ctrl => 0x0C
  | .cmd => 0x10
  | .status => 0x14
  | .errCode => 0x18
  | .errInfo => 0x1C
  | .srcAddr => 0x20
  | .srcLen => 0x24
  | .dstAddr => 0x28
  | .dstCap => 0x2C
  | .dstLen => 0x30
  | .width => 0x34
  | .height => 0x38
  | .padLen => 0x3C
  | .chunkCount => 0x40

end Sys2Proof.Machine
end

