-- ==== Sys2Proof/Machine/Flags.lean ====
section
/-! DEFINITION. The status and control bits: BUSY, the STATUS and CTRL words, write-1-to-clear, the interrupt output
and the numbers of the error codes (10_state.md R25, R27, R28, R46; 60_exceptions.md R190, R199). PPCB has no other
flag (R40). -/

namespace Sys2Proof.Machine

/-- STATUS.BUSY (R27): a command is in flight (log 10). -/
def State.busy (s : State) : Bool := s.phase != .idle

/-- STATUS as the host reads it (R27): bit 0 BUSY, 1 DONE, 2 ERR, 3 OVR, the rest 0. -/
def State.statusWord (s : State) : Word :=
  0#28 ++ BitVec.ofBool s.ovr ++ BitVec.ofBool s.err ++ BitVec.ofBool s.done ++ BitVec.ofBool s.busy

/-- CTRL as the host reads it (R25): bit 0 IRQ_EN; SRST and the rest read 0. -/
def State.ctrlWord (s : State) : Word := 0#31 ++ BitVec.ofBool s.irqEn

/-- The IRQ output (R46, R199): a level. -/
def State.irq (s : State) : Bool := s.irqEn && s.done

/-- The host observes STATUS.BUSY = 0 (20_memory.md R60): from now on it reads the result registers and the destination bytes
as they stand. -/
def State.observe (s : State) : State := { s with old := OldResults.none, unseen := [] }

/-- What a host read of STATUS is to the host (R60): returning BUSY = 0 or DONE = 1, it is the observation. -/
def State.observeStatus (s : State) : State := if !s.busy || s.done then s.observe else s

/-- The host takes the interrupt, which also is the observation (R60). It can while IRQ is high (R199); otherwise there is
nothing to take. -/
def State.takeInterrupt (s : State) : State := if s.irq then { s.observe with justAccepted := false } else s

/-- A host write of `v` to STATUS (R27): a 1 clears DONE (bit 1), ERR (bit 2) or OVR (bit 3); a 0 changes nothing; BUSY
is read-only. This is the host's return from a failure (60_exceptions.md R200). -/
def State.clearStatus (s : State) (v : Word) : State :=
  { s with
    done := s.done && !v.getLsbD 1
    err := s.err && !v.getLsbD 2
    ovr := s.ovr && !v.getLsbD 3 }

/-- The number of an error code (R190). -/
def ErrCode.toByte : ErrCode → Byte
  | .none => 0
  | .badSignature => 1
  | .truncatedChunk => 2
  | .missingEndMarker => 3
  | .invalidFilter => 4
  | .missingHeader => 5
  | .missingPayload => 6
  | .decompressionFailure => 7
  | .illegalCommand => 8
  | .shortField => 9
  | .badPadLength => 10
  | .shortScanlineData => 11
  | .dstOverflow => 12
  | .regionRange => 13
  | .regionOverlap => 14

end Sys2Proof.Machine
end

