-- ==== Sys2Proof/Machine/Ops.lean ====
section
/-! DEFINITION. The named operations: the buffer memory (00_scope.md R12, 10_state.md R45), free draws, acceptance
(R42), the two completions (60_exceptions.md R196, R198) and the soft reset (70_reset_and_hazards.md R222, R223).
`State.fail` is the one operation by which every failure is taken; the return from it is `State.clearStatus` of
Flags.lean and `State.accept` (R200). -/

namespace Sys2Proof.Machine

/-- The byte written at an address since power-on; `none` where nothing has been written (R221). -/
def Memory.cell : Memory → Nat → Option Byte
  | [], _ => none
  | (b, v) :: rest, a => if a = b then some v else Memory.cell rest a

/-- `MemRead(a, 1)` (R12). A byte nothing has written reads as its unknown power-on content (R221, log 5). -/
def Memory.read (m : Memory) (a : Nat) : Byte := (m.cell a).getD (Config.powerOnByte a)

/-- `MemWrite(a, 1, v)` (R12); it keeps the addresses strictly rising. -/
def Memory.write : Memory → Nat → Byte → Memory
  | [], a, v => [(a, v)]
  | (b, w) :: rest, a, v =>
    if a < b then (a, v) :: (b, w) :: rest
    else if a = b then (a, v) :: rest
    else (b, w) :: Memory.write rest a v

/-- The bytes `[a, a + n)`, in ascending order. -/
def Memory.readBytes (m : Memory) (a n : Nat) : List Byte := (List.range n).map (fun k => m.read (a + k))

/-- Write a byte string from address `a` on, in ascending order (R109, R132). -/
def Memory.writeBytes (m : Memory) (a : Nat) : List Byte → Memory
  | [] => m
  | b :: bs => Memory.writeBytes (m.write a b) (a + 1) bs

/-- The addresses are strictly rising from `lo` on and below `size`. -/
def Memory.wfFrom (size : Nat) : Nat → Memory → Bool
  | _, [] => true
  | lo, (a, _) :: rest => decide (lo ≤ a) && decide (a < size) && Memory.wfFrom size (a + 1) rest

/-- The canonical form of a buffer memory of `size` bytes: addresses strictly rising, each below `size` (R45). What
an unlisted address holds is "nothing written", which no entry equals, so equal memories are equal lists (log 5). -/
def Memory.wf (size : Nat) (m : Memory) : Bool := Memory.wfFrom size 0 m

/-- The next `n` free values (log 6). -/
def State.drawn (s : State) (n : Nat) : List Byte := (List.range n).map (fun j => Config.freeByte (s.draws + j))

/-- The bytes `[a, a + n)` take unspecified values (R197, R223): a free draw for each of them that exists (log 6). -/
def State.scramble (s : State) (a n : Nat) : State :=
  let k := min n (s.memSize.toNat - a)
  { s with mem := s.mem.writeBytes a (s.drawn k), draws := s.draws + k }

/-- The command has a destination region (R47): every command but CHK_HDR and CHK_PLEN. An illegal word names no
command and has none (R191; log 14). -/
def hasDestination (w : Word) : Bool :=
  match decodeCommand w with
  | .ok .mapB2g | .ok .mapG2b | .ok .fltRecon | .ok .chkScan | .ok .chkIdat | .ok .chkInspad => true
  | _ => false

/-- Acceptance of the command word `w` (R42), in one step. OVR is not changed. Until the host observes BUSY = 0 it reads the
result registers as they are now, and any value from the command's destination region (20_memory.md R60; log 23). -/
def State.accept (s : State) (w : Word) : State :=
  { s with
    cmd := w
    phase := .command
    done := false
    err := false
    errCode := .none
    errInfo := 0
    latch := s.snapshot w
    row := 0
    old := s.results
    unseen := if hasDestination w then (s.snapshot w).dstRegion :: s.unseen else s.unseen
    justAccepted := true }

/-- The part the two completions share (R196, R198): BUSY <- 0, DONE <- 1; the sequencer keeps nothing (R44). -/
def State.retire (s : State) : State :=
  { s with phase := .idle, done := true, latch := Latch.empty, row := 0 }

/-- Failure completion (R196): the whole of the trap. No result register changes (R41). -/
def State.fail (s : State) (f : Failure) : State :=
  { s.retire with err := true, errCode := f.code, errInfo := f.info }

/-- Success completion (R198) with what the command commits (R41): the bytes it writes to its destination region
and its result registers, together with BUSY <- 0 and DONE <- 1. ERR and ERR_CODE stay as they are. -/
def State.commit (s : State) (c : Commit) : State :=
  { s.retire with
    mem := s.mem.writeBytes s.latch.dstAddr.toNat c.out
    dstLen := c.dstLen.getD s.dstLen
    width := c.width.getD s.width
    height := c.height.getD s.height
    padLen := c.padLen.getD s.padLen
    chunkCount := c.chunkCount.getD s.chunkCount }

/-- The completion of a command whose result is `r` (R14): an error or what it commits. -/
def State.finish (s : State) : Except Failure Commit → State
  | .error f => s.fail f
  | .ok c => s.commit c

/-- What an abort leaves in the buffer memory (R223): the destination region as latched at acceptance holds
unspecified values; nothing changes while idle (R222) or for a command without one. The command has no completion left to
observe, so its region is no unseen one any more (log 23). -/
def State.abort (s : State) : State :=
  if s.busy && hasDestination s.latch.word then
    { s.scramble s.latch.dstAddr.toNat s.latch.dstCap.toNat with unseen := s.unseen.erase s.latch.dstRegion }
  else s

/-- Soft reset (R222, R223), in one step: every register takes its reset value and the sequencer becomes idle. ID,
MEM_SIZE, MAXDIM, SIG and the tags are constants, which no step changes (R6, R21; log 15). The result registers read 0; a soft
reset is no observation, so the destination bytes of a completed command that are not yet visible stay so (20_memory.md R60;
log 23). What the host still has to do,
what it has been answered and the draw counter are no part of PPCB. -/
def State.softReset (s : State) : State :=
  { State.reset with
    id := s.id
    memSize := s.memSize
    maxDim := s.maxDim
    mem := s.abort.mem
    format := s.format
    unseen := s.abort.unseen
    host := s.host
    responses := s.responses
    draws := s.abort.draws }

end Sys2Proof.Machine
end

