-- ==== Sys2Proof/Machine/Chunk.lean ====
section
/-! DEFINITION. The chunk frame parser and compositor (42_chunk.md R150 to R169): CHK_SCAN, CHK_HDR, CHK_IDAT, CHK_PLEN
and CHK_INSPAD, each a function of the latched operands and the buffer memory (00_scope.md R14). -/

namespace Sys2Proof.Machine

/-- The 4 tag bytes of the chunk at offset `p` (30_encoding.md R83). -/
def tagAt (c : List Byte) (p : Nat) : List Byte :=
  [c.getD (p + 4) 0, c.getD (p + 5) 0, c.getD (p + 6) 0, c.getD (p + 7) 0]

/-- The loop of `Parse` from offset `p` on (R151, R153). Each turn advances by at least 12 bytes, so as much fuel as
there are bytes left never runs out. -/
def parseFrom (c : List Byte) : (fuel p : Nat) → Except Failure (List Chunk)
  | 0, _ => .ok []
  | fuel + 1, p =>
    if c.length ≤ p then .ok []
    else if c.length - p < 8 then .error ⟨.truncatedChunk, BitVec.ofNat 32 p⟩
    else if c.length - p - 8 < be32At c p + 4 then .error ⟨.truncatedChunk, BitVec.ofNat 32 p⟩
    else (parseFrom c fuel (p + 12 + be32At c p)).map (fun rest => ⟨p, be32At c p, tagAt c p⟩ :: rest)

/-- `Parse` of a whole container (R151 to R154), for the signature of `f`. -/
def parse (f : ContainerFormat) (c : List Byte) : Except Failure (List Chunk) :=
  if c.length < 8 then .error ⟨.badSignature, 0⟩
  else if c.take 8 != f.sig then .error ⟨.badSignature, 0⟩
  else parseFrom c c.length 8

/-- `First(chunks, T)` (R155). -/
def firstChunk (cs : List Chunk) (tag : List Byte) : Option Chunk := cs.find? (fun e => e.tag == tag)

/-- `All(chunks, T)` (R155). -/
def allChunks (cs : List Chunk) (tag : List Byte) : List Chunk := cs.filter (fun e => e.tag == tag)

/-- The data bytes of a chunk (R83). -/
def chunkData (c : List Byte) (e : Chunk) : List Byte := (c.drop (e.offset + 8)).take e.length

/-- The 12-byte descriptor of a chunk (R88). -/
def descriptor (e : Chunk) : List Byte :=
  bytesBe32 (BitVec.ofNat 32 e.offset) ++ bytesBe32 (BitVec.ofNat 32 e.length) ++ e.tag

/-- The inserted pad chunk (R87, R167, R168): length 4, TAG_PAD, the pad length, 4 zero bytes. -/
def padChunk (f : ContainerFormat) (v : Word) : List Byte := [0, 0, 0, 4] ++ f.tagPad ++ bytesBe32 v ++ [0, 0, 0, 0]

/-- `insertPadChunk` at offset `q` (R164 to R166). -/
def insertAt (f : ContainerFormat) (c : List Byte) (q : Nat) (v : Word) : List Byte :=
  c.take q ++ padChunk f v ++ c.drop q

/-- The order every chunk command runs in (R150): the region check, the whole parse, its own part, and CHUNK_COUNT
among what it commits (R156). -/
def chunkResult (f : ContainerFormat) (check : Option Failure) (c : List Byte) (own : List Chunk → Except Failure Commit) :
    Except Failure Commit :=
  match check with
  | some e => .error e
  | none =>
    match parse f c with
    | .error e => .error e
    | .ok cs => (own cs).map (fun k => { k with chunkCount := some (BitVec.ofNat 32 cs.length) })

/-- The source bytes of a latch. -/
def Latch.source (o : Latch) (m : Memory) : List Byte := m.readBytes o.srcAddr.toNat o.srcLen.toNat

/-- The capacity check and the output of a command whose output is `out` (60_exceptions.md R194). -/
def outputOf (o : Latch) (length : Nat) (out : List Byte) : Except Failure Commit :=
  if o.dstCap.toNat < length then .error ⟨.dstOverflow, sat32 length⟩
  else .ok { out := out, dstLen := some (BitVec.ofNat 32 length) }

/-- CHK_SCAN's own part (R157). -/
def scanOwn (o : Latch) (cs : List Chunk) : Except Failure Commit :=
  outputOf o (12 * cs.length) (cs.flatMap descriptor)

/-- CHK_HDR's own part (R158, R159). -/
def hdrOwn (f : ContainerFormat) (o : Latch) (c : List Byte) (cs : List Chunk) : Except Failure Commit :=
  match firstChunk cs f.tagHdr with
  | none => .error ⟨.missingHeader, sat32 o.srcLen.toNat⟩
  | some e =>
    if e.length < 8 then .error ⟨.shortField, BitVec.ofNat 32 e.offset⟩
    else .ok
      { width := some (BitVec.ofNat 32 (be32At c (e.offset + 8)))
        height := some (BitVec.ofNat 32 (be32At c (e.offset + 12))) }

/-- CHK_IDAT's own part (R160, R161). -/
def idatOwn (f : ContainerFormat) (o : Latch) (c : List Byte) (cs : List Chunk) : Except Failure Commit :=
  match allChunks cs f.tagDat with
  | [] => .error ⟨.missingPayload, sat32 o.srcLen.toNat⟩
  | e :: es =>
    outputOf o (((e :: es).map Chunk.length).sum) ((e :: es).flatMap (chunkData c))

/-- CHK_PLEN's own part (R162, R163). -/
def plenOwn (f : ContainerFormat) (c : List Byte) (cs : List Chunk) : Except Failure Commit :=
  match firstChunk cs f.tagPad with
  | none => .ok { padLen := some 0 }
  | some e =>
    if e.length < 4 then .error ⟨.shortField, BitVec.ofNat 32 e.offset⟩
    else .ok { padLen := some (BitVec.ofNat 32 (be32At c (e.offset + 8))) }

/-- CHK_INSPAD's own part (R164 to R169). -/
def inspadOwn (f : ContainerFormat) (o : Latch) (c : List Byte) (cs : List Chunk) : Except Failure Commit :=
  match firstChunk cs f.tagEnd with
  | none => .error ⟨.missingEndMarker, sat32 o.srcLen.toNat⟩
  | some e => outputOf o (o.srcLen.toNat + 16) (insertAt f c e.offset o.padLen)

/-- CHK_SCAN as a function of the operands and the memory (R157). -/
def chkScanResult (f : ContainerFormat) (size : Nat) (o : Latch) (m : Memory) : Except Failure Commit :=
  chunkResult f (checkRegions size o) (o.source m) (scanOwn o)

/-- CHK_HDR as a function of the operands and the memory (R158): the destination is not checked. -/
def chkHdrResult (f : ContainerFormat) (size : Nat) (o : Latch) (m : Memory) : Except Failure Commit :=
  chunkResult f (checkSource size o) (o.source m) (hdrOwn f o (o.source m))

/-- CHK_IDAT as a function of the operands and the memory (R160). -/
def chkIdatResult (f : ContainerFormat) (size : Nat) (o : Latch) (m : Memory) : Except Failure Commit :=
  chunkResult f (checkRegions size o) (o.source m) (idatOwn f o (o.source m))

/-- CHK_PLEN as a function of the operands and the memory (R162): the destination is not checked. -/
def chkPlenResult (f : ContainerFormat) (size : Nat) (o : Latch) (m : Memory) : Except Failure Commit :=
  chunkResult f (checkSource size o) (o.source m) (plenOwn f (o.source m))

/-- CHK_INSPAD as a function of the operands and the memory (R164). -/
def chkInspadResult (f : ContainerFormat) (size : Nat) (o : Latch) (m : Memory) : Except Failure Commit :=
  chunkResult f (checkRegions size o) (o.source m) (inspadOwn f o (o.source m))

/-- CHK_SCAN (R157). -/
def execChkScan (s : State) : Host.Outcome State Fault Refusal :=
  .next (s.finish (chkScanResult s.format s.memSize.toNat s.latch s.mem))

/-- CHK_HDR (R158). -/
def execChkHdr (s : State) : Host.Outcome State Fault Refusal :=
  .next (s.finish (chkHdrResult s.format s.memSize.toNat s.latch s.mem))

/-- CHK_IDAT (R160). -/
def execChkIdat (s : State) : Host.Outcome State Fault Refusal :=
  .next (s.finish (chkIdatResult s.format s.memSize.toNat s.latch s.mem))

/-- CHK_PLEN (R162). -/
def execChkPlen (s : State) : Host.Outcome State Fault Refusal :=
  .next (s.finish (chkPlenResult s.format s.memSize.toNat s.latch s.mem))

/-- CHK_INSPAD (R164). -/
def execChkInspad (s : State) : Host.Outcome State Fault Refusal :=
  .next (s.finish (chkInspadResult s.format s.memSize.toNat s.latch s.mem))

end Sys2Proof.Machine
end

