-- ==== Sys2Proof/Machine/Filter.lean ====
section
/-! DEFINITION. The scanline filter bank (41_filter.md R120 to R132): FLT_RECON makes its checks and starts the row
walk; each row's filter-type byte is an instruction of its own that reconstructs the row; after the last row the
command completes (log 7). -/

namespace Sys2Proof.Machine

/-- The reconstructed row bytes RB (R120). -/
def rowBytes (width : Nat) : Nat := 4 * width

/-- The scanline length SL (R120, 30_encoding.md R78). -/
def scanlineLength (width : Nat) : Nat := 1 + rowBytes width

/-- The source bytes a reconstruction needs (R120, R129). -/
def scanlineNeed (width height : Nat) : Nat := height * scanlineLength width

/-- The output bytes of a reconstruction (R120, R79). -/
def reconLength (width height : Nat) : Nat := rowBytes width * height

/-- The predictor of None (R123). -/
def predNone (_ _ _ : Nat) : Nat := 0

/-- The predictor of Sub (R124): the left neighbour. -/
def predSub (a _ _ : Nat) : Nat := a

/-- The predictor of Up (R125): the up neighbour. -/
def predUp (_ b _ : Nat) : Nat := b

/-- The predictor of Average (R126): half of the exact sum of left and up. -/
def predAverage (a b _ : Nat) : Nat := (a + b) / 2

/-- The predictor of Paeth (R127): the neighbour closest to a + b - c, ties going left, up, leftup. -/
def predPaeth (a b c : Nat) : Nat :=
  let p : Int := (a : Int) + b - c
  let pa := (p - a).natAbs
  let pb := (p - b).natAbs
  let pc := (p - c).natAbs
  if pa ≤ pb ∧ pa ≤ pc then a
  else if pb ≤ pc then b
  else c

/-- One reconstructed byte (R120): `(cur + Pred(a, b, c)) mod 256`. -/
def reconByte (pred : Nat → Nat → Nat → Nat) (a b c cur : Byte) : Byte :=
  BitVec.ofNat 8 (cur.toNat + pred a.toNat b.toNat c.toNat)

/-- Reconstruct the bytes of a row from byte `x` on, in ascending x (R121, R122). `up` is the reconstructed row above
(zeros on row 0), `done` the bytes of this row reconstructed so far, the latest first: the left neighbour of byte x is
the fourth latest. -/
def reconFrom (pred : Nat → Nat → Nat → Nat) (up : List Byte) : Nat → List Byte → List Byte → List Byte
  | _, _, [] => []
  | x, done, cur :: rest =>
    let a := if 4 ≤ x then done.getD 3 0 else 0
    let b := up.getD x 0
    let c := if 4 ≤ x then up.getD (x - 4) 0 else 0
    let r := reconByte pred a b c cur
    r :: reconFrom pred up (x + 1) (r :: done) rest

/-- Reconstruct a whole row of filtered bytes (R120 to R122). -/
def reconRow (pred : Nat → Nat → Nat → Nat) (up cur : List Byte) : List Byte := reconFrom pred up 0 [] cur

/-- The checks of FLT_RECON before its row walk (R120, R129, 60_exceptions.md R195): the first failure, if any. -/
def fltCheck (size : Nat) (o : Latch) : Option Failure :=
  match checkRegions size o with
  | some f => some f
  | none =>
    let need := scanlineNeed o.width.toNat o.height.toNat
    let out := reconLength o.width.toNat o.height.toNat
    if o.srcLen.toNat < need then some ⟨.shortScanlineData, sat32 need⟩
    else if o.dstCap.toNat < out then some ⟨.dstOverflow, sat32 out⟩
    else none

/-- FLT_RECON (R120): fail its checks, or start the row walk at row 0. -/
def execFltRecon (s : State) : Host.Outcome State Fault Refusal :=
  match fltCheck s.memSize.toNat s.latch with
  | some f => .next (s.fail f)
  | none => .next { s with phase := .rows, row := 0 }

/-- The offset in the source of the current row's filter byte (R78). -/
def State.filterOffset (s : State) : Nat := s.row * scanlineLength s.latch.width.toNat

/-- The address of the current row's filtered bytes (R78). -/
def State.filteredAddr (s : State) : Nat := s.latch.srcAddr.toNat + s.filterOffset + 1

/-- The address of the current row's reconstructed bytes (R79). -/
def State.reconAddr (s : State) : Nat := s.latch.dstAddr.toNat + s.row * rowBytes s.latch.width.toNat

/-- The reconstructed row above the current one, read back from the destination region (R57, R121); zeros above
row 0. -/
def State.rowAbove (s : State) : List Byte :=
  let n := rowBytes s.latch.width.toNat
  if s.row = 0 then List.replicate n 0
  else s.mem.readBytes (s.latch.dstAddr.toNat + (s.row - 1) * n) n

/-- The row the filter with this predictor reconstructs from the current row's filtered bytes (R120). -/
def State.reconstructed (s : State) (pred : Nat → Nat → Nat → Nat) : List Byte :=
  reconRow pred s.rowAbove (s.mem.readBytes s.filteredAddr (rowBytes s.latch.width.toNat))

/-- The current row's filtered and reconstructed bytes lie in the buffer memory (R51). -/
def State.rowInMemory (s : State) : Bool :=
  inRange s.memSize.toNat s.filteredAddr (rowBytes s.latch.width.toNat) &&
    inRange s.memSize.toNat s.reconAddr (rowBytes s.latch.width.toNat)

/-- Reconstruct the current row with a predictor, write it and go on to the next row (R120, R122). A row outside
the buffer memory, which R51 rules out, faults (log 13). -/
def reconstructRow (pred : Nat → Nat → Nat → Nat) (s : State) : Host.Outcome State Fault Refusal :=
  if s.rowInMemory then
    .next { s with mem := s.mem.writeBytes s.reconAddr (s.reconstructed pred), row := s.row + 1 }
  else .fault (.outsideMemory s.reconAddr)

/-- Filter type 0, None (R123). -/
def execFtNone (s : State) : Host.Outcome State Fault Refusal := reconstructRow predNone s

/-- Filter type 1, Sub (R124). -/
def execFtSub (s : State) : Host.Outcome State Fault Refusal := reconstructRow predSub s

/-- Filter type 2, Up (R125). -/
def execFtUp (s : State) : Host.Outcome State Fault Refusal := reconstructRow predUp s

/-- Filter type 3, Average (R126). -/
def execFtAverage (s : State) : Host.Outcome State Fault Refusal := reconstructRow predAverage s

/-- Filter type 4, Paeth (R127). -/
def execFtPaeth (s : State) : Host.Outcome State Fault Refusal := reconstructRow predPaeth s

/-- A row whose filter byte is 5 to 255 (R128, R197): the whole output region holds unspecified values and the
command fails with the offset of the byte. -/
def State.invalidFilter (s : State) : State :=
  (s.scramble s.latch.dstAddr.toNat (reconLength s.latch.width.toNat s.latch.height.toNat)).fail
    ⟨.invalidFilter, BitVec.ofNat 32 s.filterOffset⟩

/-- The end of the row walk (R120): the command succeeds with DST_LEN. -/
def State.rowsComplete (s : State) : State :=
  s.commit { dstLen := some (BitVec.ofNat 32 (reconLength s.latch.width.toNat s.latch.height.toNat)) }

/-- The predictor each filter type selects (R120), by the instruction its byte decodes to. -/
def predOf : Instr → Nat → Nat → Nat → Nat
  | .ftSub => predSub
  | .ftUp => predUp
  | .ftAverage => predAverage
  | .ftPaeth => predPaeth
  | _ => predNone

/-- The rows from row `y` on of a reconstruction as a function of the source bytes alone (R120, R122): `k` rows are
left, `src` starts at row y's filter byte, `up` is the row above. The clear form of the row walk. -/
def reconRows (width : Nat) : (k y : Nat) → (up src : List Byte) → Except Failure (List Byte)
  | 0, _, _, _ => .ok []
  | k + 1, y, up, src =>
    match decodeFilter (src.getD 0 0) with
    | .error _ => .error ⟨.invalidFilter, BitVec.ofNat 32 (y * scanlineLength width)⟩
    | .ok i =>
      let r := reconRow (predOf i) up ((src.drop 1).take (rowBytes width))
      (reconRows width k (y + 1) r (src.drop (scanlineLength width))).map (fun rest => r ++ rest)

/-- FLT_RECON's output as a function of its source, WIDTH and HEIGHT (R122). -/
def reconAll (width height : Nat) (src : List Byte) : Except Failure (List Byte) :=
  reconRows width height 0 (List.replicate (rowBytes width) 0) src

end Sys2Proof.Machine
end

