-- ==== Sys2Proof/Machine/Mapper.lean ====
section
/-! DEFINITION. The grid mapper: MAP_B2G and MAP_G2B (40_mapper.md R100 to R109), each a function of the latched
operands and the buffer memory (00_scope.md R14). -/

namespace Sys2Proof.Machine

/-- unitWidth (R101): pixels needed for `n` payload bytes. -/
def unitWidth (n : Nat) : Nat := ceilDiv n 3

/-- The grid's height (R101). -/
def gridHeight (maxDim n : Nat) : Nat := unitWidth n / maxDim + 1

/-- The grid's width (R101), at least 1 (R104). -/
def gridWidth (maxDim n : Nat) : Nat := max 1 (ceilDiv (unitWidth n) (gridHeight maxDim n))

/-- totalSlotBytes (R100, R103). -/
def gridTotal (maxDim n : Nat) : Nat := gridWidth maxDim n * gridHeight maxDim n * 4

/-- PadLength (R103). -/
def gridPad (maxDim n : Nat) : Nat := gridTotal maxDim n - (4 * (n / 3) + n % 3)

/-- `Slot(j)` of R102: the sentinel in every fourth byte, then the payload, then zeros. -/
def gridSlot (src : List Byte) (j : Nat) : Byte :=
  if j % 4 = 3 then Config.sentinel else src.getD (3 * (j / 4) + j % 4) 0

/-- `bytesToGrid` (R100): the flattened grid of a byte sequence. -/
def gridOf (maxDim : Nat) (src : List Byte) : List Byte :=
  (List.range (gridTotal maxDim src.length)).map (gridSlot src)

/-- realByteCount of a usable length `u` (R105). -/
def payloadCount (u : Nat) : Nat := 3 * (u / 4) + u % 4

/-- `gridToBytes` for a pad count that is not too large (R105, R106): skip every fourth byte. -/
def payloadOf (grid : List Byte) (pad : Nat) : List Byte :=
  (List.range (payloadCount (grid.length - pad))).map (fun k => grid.getD (4 * (k / 3) + k % 3) 0)

/-- MAP_B2G as a function of the operands and the memory (R100). -/
def mapB2gResult (size maxDim : Nat) (o : Latch) (m : Memory) : Except Failure Commit :=
  match checkRegions size o with
  | some f => .error f
  | none =>
    let n := o.srcLen.toNat
    let total := gridTotal maxDim n
    if o.dstCap.toNat < total then .error ⟨.dstOverflow, sat32 total⟩
    else .ok
      { out := gridOf maxDim (m.readBytes o.srcAddr.toNat n)
        dstLen := some (BitVec.ofNat 32 total)
        width := some (BitVec.ofNat 32 (gridWidth maxDim n))
        height := some (BitVec.ofNat 32 (gridHeight maxDim n))
        padLen := some (BitVec.ofNat 32 (gridPad maxDim n)) }

/-- MAP_G2B as a function of the operands and the memory (R105, R107). -/
def mapG2bResult (size : Nat) (o : Latch) (m : Memory) : Except Failure Commit :=
  match checkRegions size o with
  | some f => .error f
  | none =>
    if o.srcLen.toNat < o.padLen.toNat then .error ⟨.badPadLength, o.padLen⟩
    else
      let count := payloadCount (o.srcLen.toNat - o.padLen.toNat)
      if o.dstCap.toNat < count then .error ⟨.dstOverflow, sat32 count⟩
      else .ok
        { out := payloadOf (m.readBytes o.srcAddr.toNat o.srcLen.toNat) o.padLen.toNat
          dstLen := some (BitVec.ofNat 32 count) }

/-- MAP_B2G (R100). -/
def execMapB2g (s : State) : Host.Outcome State Fault Refusal :=
  .next (s.finish (mapB2gResult s.memSize.toNat s.maxDim.toNat s.latch s.mem))

/-- MAP_G2B (R105). -/
def execMapG2b (s : State) : Host.Outcome State Fault Refusal :=
  .next (s.finish (mapG2bResult s.memSize.toNat s.latch s.mem))

end Sys2Proof.Machine
end

