-- ==== Sys2Proof/Machine/Dispatch.lean ====
section
/-! DEFINITION. The dispatch: one arm per instruction of Syntax.lean. -/

namespace Sys2Proof.Machine

/-- Run an instruction. -/
def exec (i : Instr) (s : State) : Host.Outcome State Fault Refusal :=
  match i with
  | .mapB2g => Sys2Proof.Machine.execMapB2g s
  | .mapG2b => Sys2Proof.Machine.execMapG2b s
  | .fltRecon => Sys2Proof.Machine.execFltRecon s
  | .chkScan => Sys2Proof.Machine.execChkScan s
  | .chkHdr => Sys2Proof.Machine.execChkHdr s
  | .chkIdat => Sys2Proof.Machine.execChkIdat s
  | .chkPlen => Sys2Proof.Machine.execChkPlen s
  | .chkInspad => Sys2Proof.Machine.execChkInspad s
  | .ftNone => Sys2Proof.Machine.execFtNone s
  | .ftSub => Sys2Proof.Machine.execFtSub s
  | .ftUp => Sys2Proof.Machine.execFtUp s
  | .ftAverage => Sys2Proof.Machine.execFtAverage s
  | .ftPaeth => Sys2Proof.Machine.execFtPaeth s

end Sys2Proof.Machine
end

