-- ==== Sys2Proof/Machine/HostPort.lean ====
section
/-! DEFINITION. The host port: one bus transaction (20_memory.md R50 to R54, R58, R60, R61; 10_state.md R21 to R39), and taking
the interrupt (R60). -/

namespace Sys2Proof.Machine

/-- The host port takes the access (R52, R54): registers 32-bit at offsets that are multiples of 4; the buffer 8-bit, or
32-bit at multiples of 4, inside the `size` bytes. Any other access gets the bus error response. -/
def Txn.taken (size : Nat) (t : Txn) : Bool :=
  match t.target, t.width with
  | .reg offset, .w32 => offset.toNat % 4 == 0
  | .reg _, .w8 => false
  | .reg _, .w16 => false
  | .mem a, .w8 => decide (a < size)
  | .mem _, .w16 => false
  | .mem a, .w32 => a % 4 == 0 && decide (a + 4 ≤ size)

/-- The value a register holds (10_state.md R22 to R38); a reserved offset holds none and reads 0 (R39). -/
def State.regValue (s : State) : Option Reg → Word
  | some .id => s.id
  | some .memSize => s.memSize
  | some .maxDim => s.maxDim
  | some .ctrl => s.ctrlWord
  | some .cmd => s.cmd
  | some .status => s.statusWord
  | some .errCode => s.errCode.toByte.setWidth 32
  | some .errInfo => s.errInfo
  | some .srcAddr => s.srcAddr
  | some .srcLen => s.srcLen
  | some .dstAddr => s.dstAddr
  | some .dstCap => s.dstCap
  | some .dstLen => s.dstLen
  | some .width => s.width
  | some .height => s.height
  | some .padLen => s.padLen
  | some .chunkCount => s.chunkCount
  | none => 0

/-- The old value a register reads as, if it is a result register with one (20_memory.md R60). -/
def OldResults.of (o : OldResults) : Option Reg → Option Word
  | some .dstLen => o.dstLen
  | some .width => o.width
  | some .height => o.height
  | some .padLen => o.padLen
  | some .chunkCount => o.chunkCount
  | _ => Option.none

/-- The value a host read of a register returns: the one it holds, but for a result register, until the host has observed
BUSY = 0, the one from before the acceptance of the command (20_memory.md R60, R61; 70_reset_and_hazards.md R225; log 23). -/
def State.readReg (s : State) (r : Option Reg) : Word := (s.old.of r).getD (s.regValue r)

/-- What a host read of a register leaves: a STATUS read can be the observation of BUSY = 0 (R60); no other read, and no
other part of the state, has an effect (R58). -/
def State.afterRead (s : State) (r : Option Reg) : State := if r = some .status then s.observeStatus else s

/-- A dropped host write (R61, R202). -/
def State.overrun (s : State) : State := { s with ovr := true }

/-- A host write of CTRL (R25): a 1 in bit 1 is a soft reset, which leaves IRQ_EN at its reset value (R222, log 16);
otherwise bit 0 is IRQ_EN. Honoured during BUSY (R61). -/
def State.writeCtrl (s : State) (v : Word) : State :=
  if v.getLsbD 1 then s.softReset else { s with irqEn := v.getLsbD 0 }

/-- A host write that only takes effect while BUSY = 0 (R61): dropped with OVR otherwise. -/
def State.ifIdle (s t : State) : State := if s.busy then s.overrun else t

/-- A host write of `v` to a register (R25 to R38, R61); read-only registers and reserved offsets ignore it (R39). WIDTH,
HEIGHT and PAD_LEN then read as the host has written them (20_memory.md R69; log 23). -/
def State.writeReg (s : State) (r : Option Reg) (v : Word) : State :=
  match r with
  | some .ctrl => s.writeCtrl v
  | some .cmd => s.ifIdle (s.accept v)
  | some .status => s.clearStatus v
  | some .srcAddr => s.ifIdle { s with srcAddr := v }
  | some .srcLen => s.ifIdle { s with srcLen := v }
  | some .dstAddr => s.ifIdle { s with dstAddr := v }
  | some .dstCap => s.ifIdle { s with dstCap := v }
  | some .width => s.ifIdle { s with width := v, old := { s.old with width := none } }
  | some .height => s.ifIdle { s with height := v, old := { s.old with height := none } }
  | some .padLen => s.ifIdle { s with padLen := v, old := { s.old with padLen := none } }
  | some .id => s
  | some .memSize => s
  | some .maxDim => s
  | some .errCode => s
  | some .errInfo => s
  | some .dstLen => s
  | some .chunkCount => s
  | none => s

/-- The bytes a buffer access of this width reaches (R52). -/
def Width.bytes : Width → Nat
  | .w8 => 1
  | .w16 => 2
  | .w32 => 4

/-- The bus value of the bytes of a buffer read: one byte zero-extended, or four in lane order (R53, log 19). -/
def busValue : List Byte → Word
  | [b0, b1, b2, b3] => laneWord b0 b1 b2 b3
  | b0 :: _ => b0.setWidth 32
  | [] => 0

/-- The bytes a buffer write of this width stores (R53). -/
def busBytes (width : Width) (v : Word) : List Byte := (laneBytes v).take width.bytes

/-- Answer the host. -/
def State.respond (s : State) (r : Response) : State := { s with responses := r :: s.responses }

/-- A host read of this byte returns any value: BUSY = 1 (R61), or the byte belongs to the destination region of a command
whose end the host has not observed yet (R60, 70_reset_and_hazards.md R225). -/
def State.hidden (s : State) (a : Nat) : Bool := s.busy || s.unseen.any (fun r => r.contains a)

/-- What a host read of the buffer returns for byte `k` of the access at `a`: the byte of the memory, or a free draw (log 6). -/
def State.busByte (s : State) (a k : Nat) : Byte :=
  if s.hidden (a + k) then Config.freeByte (s.draws + k) else s.mem.read (a + k)

/-- How many draws a host read of `n` bytes at `a` counts: one a byte if any of them is hidden (log 6). -/
def State.busDraws (s : State) (a n : Nat) : Nat := if (List.range n).any (fun k => s.hidden (a + k)) then n else 0

/-- A host read of the buffer (R52, R53, R60, R61). -/
def State.readBuffer (s : State) (a : Nat) (width : Width) : State :=
  { s.respond (.data (busValue ((List.range width.bytes).map (s.busByte a)))) with
    draws := s.draws + s.busDraws a width.bytes }

/-- A host write of the buffer (R52, R53), dropped with OVR while BUSY = 1 (R61). The bytes then read as the host has written
them (20_memory.md R69). -/
def State.writeBuffer (s : State) (a : Nat) (width : Width) (v : Word) : State :=
  s.ifIdle { s with
    mem := s.mem.writeBytes a (busBytes width v)
    unseen := s.unseen.flatMap (fun r => r.without a width.bytes) }

/-- One host bus transaction, with its response. The bus error check comes before BUSY is looked at (R52, R54: such
an access changes nothing; log 11). -/
def State.hostAccess (s : State) (t : Txn) : State :=
  if t.taken s.memSize.toNat then
    match t.target, t.dir with
    | .reg offset, .read => (s.afterRead (regOfOffset offset)).respond (.data (s.readReg (regOfOffset offset)))
    | .reg offset, .write => (s.writeReg (regOfOffset offset) t.data).respond .ack
    | .mem a, .read => s.readBuffer a t.width
    | .mem a, .write => (s.writeBuffer a t.width t.data).respond .ack
  else s.respond .busError

/-- One event of the host: an access, after which no later one is the next after an acceptance (R42), or taking the
interrupt. -/
def State.hostEvent (s : State) : HostEvent → State
  | .access t => { s with justAccepted := false }.hostAccess t
  | .interrupt => s.takeInterrupt

/-- The host-bus address of a target (R50, R66; log 4). -/
def Target.hostAddr : Target → Nat
  | .reg offset => Config.regBase + offset.toNat
  | .mem a => Config.memBase + a

/-- The target a host-bus address selects in a block of `size` buffer bytes (R50, R66); `none` for an address outside
both ranges. -/
def targetOfAddr (size addr : Nat) : Option Target :=
  if Config.regBase ≤ addr ∧ addr < Config.regBase + 256 then some (.reg (BitVec.ofNat 8 (addr - Config.regBase)))
  else if Config.memBase ≤ addr ∧ addr < Config.memBase + size then some (.mem (addr - Config.memBase))
  else none

end Sys2Proof.Machine
end

