-- ==== Sys2Proof/Machine/Fetch.lean ====
section
/-! DEFINITION. Whose turn it is and what the sequencer has before it (10_state.md R20, R43; log 7, log 8). -/

namespace Sys2Proof.Machine

/-- The event comes before any sequencer step. `The next host access observes BUSY = 1` (R42): the next access after an
acceptance, if it is a read, is made while the command is in flight. A write observes nothing, and 95_test_vectors.md P4 (d)
and P5 say that it may find the command completed, so it may wait. So may taking the interrupt, which then is the observation
(20_memory.md R60); with IRQ_EN = 0 there will be none to wait for (log 22). -/
def State.hostFirst (s : State) (e : HostEvent) : Bool :=
  s.justAccepted &&
    match e with
    | .access t => t.dir == .read
    | .interrupt => !s.irqEn

/-- Who moves (R20; 70_reset_and_hazards.md R233, R234). While no command is in flight only the host moves. While one is, the
host's next event waits for the number of sequencer steps it says; with none left to come the sequencer
moves. The host access that R42 says observes BUSY = 1 does not wait (`State.hostFirst`). -/
def State.turn (s : State) : Turn :=
  match s.host with
  | [] => if s.busy then .sequencer else .nobody
  | p :: rest => if s.busy && decide (0 < p.after) && !s.hostFirst p.event then .sequencer else .host p rest

/-- A sequencer step is one the host's next event no longer waits for. -/
def State.tick (s : State) : State :=
  { s with
    host := match s.host with
      | [] => []
      | p :: rest => { p with after := p.after - 1 } :: rest }

/-- The host's next event waits for one more sequencer step. -/
def State.delayHost (s : State) : State :=
  { s with
    host := match s.host with
      | [] => []
      | p :: rest => { p with after := p.after + 1 } :: rest }

/-- The current row's filter-type byte (41_filter.md R120). -/
def State.filterByte (s : State) : Byte := s.mem.read (s.latch.srcAddr.toNat + s.filterOffset)

/-- What the sequencer has before it: the latched command word (30_encoding.md R70 to R72), or in the row walk the
current row's filter-type byte (R75 to R77), read when the row is reached (41_filter.md R128). -/
def fetch (s : State) : Fetched :=
  match s.phase with
  | .idle | .command =>
    match decodeCommand s.latch.word with
    | .ok i => .instr i
    | .error _ => .illegal s.latch.word
  | .rows =>
    if s.row < s.latch.height.toNat then
      match decodeFilter s.filterByte with
      | .ok i => .instr i
      | .error _ => .badFilter
    else .rowsDone

/-- An accepted illegal word (60_exceptions.md R191): it fails at once, with the word. -/
def State.illegalCommand (s : State) (w : Word) : State := s.fail ⟨.illegalCommand, w⟩

/-- The command word accepted, with the sequencer to move next (log 9). -/
def State.placeCommand (s : State) (w : Word) : State := { (s.accept w).delayHost with justAccepted := false }

/-- A reconstruction of one row of width 0 whose filter byte, at address 0, is `b`, with the sequencer to move next
(log 9). -/
def State.placeFilter (s : State) (b : Byte) : State :=
  let t := { s with srcAddr := 0, srcLen := 1, dstAddr := 0, dstCap := 0, width := 0, height := 1 }
  { (t.accept 0x00000011).delayHost with phase := .rows, mem := s.mem.write 0 b, justAccepted := false }

end Sys2Proof.Machine
end

