-- ==== Sys2Proof/Machine/Step.lean ====
section
/-! DEFINITION. One step of the machine, and the placement of an instruction for the host's checks. -/

namespace Sys2Proof.Machine

/-- One step: of nobody, of the host (one event, a bus transaction or taking the interrupt) or of the sequencer (R20). -/
def step (s : State) : Host.Outcome State Fault Refusal :=
  match s.turn with
  | .nobody => .next s
  | .host p rest => .next ({ s with host := rest }.hostEvent p.event)
  | .sequencer =>
    match fetch s with
    | .instr i => exec i s.tick
    | .illegal w => .next (s.tick.illegalCommand w)
    | .badFilter => .next s.tick.invalidFilter
    | .rowsDone => .next s.tick.rowsComplete

/-- `s` with the instruction of these bits placed where the next step runs it (log 9). -/
def State.withFetchWord (s : State) (nbits w : Nat) : State :=
  match tableCode nbits w with
  | some (.command c) => s.placeCommand c
  | some (.filter b) => s.placeFilter b
  | none => s

end Sys2Proof.Machine
end

