-- ==== Sys2Proof/Machine/HostProgram.lean ====
section
/-! DEFINITION. The host: its operations and pseudo-operations as bus transactions (30_encoding.md R89 to R91), programs that
act on what they read, and the pack and unpack sequences (43_orchestration.md R181, R182). A host program is no part of the
machine's state; running one makes the machine's own steps and host accesses (log 8). -/

namespace Sys2Proof.Machine

/-! ### Transactions -/

/-- `WR <reg>, <imm32>` (R89). -/
def hostWR (r : Reg) (v : Word) : Txn := ⟨.write, .reg r.offset, .w32, v⟩

/-- `RD <reg>` (R89). -/
def hostRD (r : Reg) : Txn := ⟨.read, .reg r.offset, .w32, 0⟩

/-- `SB <addr>, <imm8>` (R89). -/
def hostSB (a : Nat) (b : Byte) : Txn := ⟨.write, .mem a, .w8, b.setWidth 32⟩

/-- `LB <addr>` (R89). -/
def hostLB (a : Nat) : Txn := ⟨.read, .mem a, .w8, 0⟩

/-- `SW <addr>, <imm32>` (R89). -/
def hostSW (a : Nat) (v : Word) : Txn := ⟨.write, .mem a, .w32, v⟩

/-- `LW <addr>` (R89). -/
def hostLW (a : Nat) : Txn := ⟨.read, .mem a, .w32, 0⟩

/-- `SBS <addr>, b0 ... bk` (R90). -/
def hostSBS : Nat → List Byte → List Txn
  | _, [] => []
  | a, b :: bs => hostSB a b :: hostSBS (a + 1) bs

/-- `CMD <mnemonic>` (R90); a filter type is no command and gives no transaction. -/
def hostCMD (i : Instr) : List Txn :=
  match encode i with
  | .command w => [hostWR .cmd w]
  | .filter _ => []

/-- `CLR` (R90). -/
def hostCLR : List Txn := [hostWR .status 0x0000000E]

/-- `REGION <sa>, <sl>, <da>, <dc>` (R90). -/
def hostREGION (sa sl da dc : Word) : List Txn :=
  [hostWR .srcAddr sa, hostWR .srcLen sl, hostWR .dstAddr da, hostWR .dstCap dc]

/-- Transactions the host makes as soon as it may. -/
def atOnce (ts : List Txn) : List Pending := ts.map (fun t => ⟨0, .access t⟩)

/-! ### Programs -/

/-- A host program: what the host does next may depend on what it has read. -/
inductive HostProgram (α : Type) where
  /-- The program ends with a result. -/
  | done (result : α)
  /-- One bus transaction; the program goes on with the port's answer. -/
  | access (t : Txn) (next : Response → HostProgram α)
  /-- `WAIT` (R90): `RD STATUS`, again and again until bit 0 of the value read is 0; the program goes on with that value. -/
  | wait (next : Word → HostProgram α)
  /-- The host waits for IRQ to be high and takes the interrupt (60_exceptions.md R199, 20_memory.md R60). -/
  | interrupt (next : HostProgram α)

/-- A finished run of a host program: its result, the state at its end, and what the host did, oldest first, each with the
state it met. -/
structure HostRun (α : Type) where
  result : α
  final : State
  trace : List (State × HostEvent)

/-- One more event at the front of a run. -/
def HostRun.after {α : Type} (s : State) (e : HostEvent) (r : HostRun α) : HostRun α :=
  { r with trace := (s, e) :: r.trace }

/-- `n` steps of the machine. -/
def State.steps : Nat → State → Host.Outcome State Fault Refusal
  | 0, s => .next s
  | n + 1, s =>
    match step s with
    | .next t => State.steps n t
    | .fault f => .fault f
    | .refused r => .refused r

/-- The answer to the transaction just made. -/
def State.answer (s : State) : Response := s.responses.headD .busError

/-- The value of an answer; 0 for one without a value. -/
def Response.value : Response → Word
  | .data v => v
  | .ack => 0
  | .busError => 0

/-- How many of `n` machine steps go before an event of a program: none before one that does not wait (10_state.md R42). -/
def State.stepsBefore (s : State) (e : HostEvent) (n : Nat) : Nat := if s.hostFirst e then 0 else n

/-- Run a host program from a state with an empty host queue. The schedule says how many machine steps go before each event,
but for one that comes first; with an empty queue those are sequencer steps while a command is in flight, and nothing
otherwise. How many they are is
open (70_reset_and_hazards.md R233), so claims quantify over the schedule. `none`: the schedule ends before the program does, or
the machine stops. -/
def HostProgram.run {α : Type} : List Nat → HostProgram α → State → Option (HostRun α)
  | _, .done a, s => some ⟨a, s, []⟩
  | [], .access _ _, _ => none
  | [], .wait _, _ => none
  | [], .interrupt _, _ => none
  | n :: sched, .access t next, s =>
    match s.steps (s.stepsBefore (.access t) n) with
    | .next u =>
      let v := u.hostEvent (.access t)
      ((next v.answer).run sched v).map (HostRun.after u (.access t))
    | .fault _ => none
    | .refused _ => none
  | n :: sched, .wait next, s =>
    match s.steps (s.stepsBefore (.access (hostRD .status)) n) with
    | .next u =>
      let t := u.hostEvent (.access (hostRD .status))
      let rest := if t.answer.value.getLsbD 0 then (HostProgram.wait next).run sched t
        else (next t.answer.value).run sched t
      rest.map (HostRun.after u (.access (hostRD .status)))
    | .fault _ => none
    | .refused _ => none
  | n :: sched, .interrupt next, s =>
    match s.steps (s.stepsBefore .interrupt n) with
    | .next u =>
      if u.irq then (next.run sched (u.hostEvent .interrupt)).map (HostRun.after u .interrupt)
      else (HostProgram.interrupt next).run sched u
    | .fault _ => none
    | .refused _ => none

/-! ### Building programs -/

/-- Make the transactions, whatever is answered. -/
def hostDo {α : Type} : List Txn → HostProgram α → HostProgram α
  | [], p => p
  | t :: ts, p => .access t (fun _ => hostDo ts p)

/-- Make a read and go on with the value. -/
def hostRead {α : Type} (t : Txn) (next : Word → HostProgram α) : HostProgram α := .access t (fun r => next r.value)

/-- Read `n` buffer bytes from `a` on with `LB` and go on with them. -/
def hostLoad {α : Type} : Nat → Nat → (List Byte → HostProgram α) → HostProgram α
  | 0, _, next => next []
  | n + 1, a, next => hostRead (hostLB a) (fun v => hostLoad n (a + 1) (fun bs => next (v.setWidth 8 :: bs)))

/-- `RUN <mnemonic>` (R90): `CMD`, then `WAIT`; the program goes on with the STATUS value that ended the wait. -/
def hostRUN {α : Type} (i : Instr) (next : Word → HostProgram α) : HostProgram α := hostDo (hostCMD i) (.wait next)

/-- `RUN` and the check of the outcome (43_orchestration.md R182, R184): read ERR_CODE, and if ERR = 1 end with that error and
nothing else. -/
def hostChecked {α : Type} (i : Instr) (next : HostProgram (Except Word α)) : HostProgram (Except Word α) :=
  hostRUN i (fun status => hostRead (hostRD .errCode) (fun code =>
    if status.getLsbD 2 then .done (.error code) else next))

/-- Write the byte string to `a`, and make it the source of a command with the destination `(da, dc)`. -/
def hostSource (bs : List Byte) (a da dc : Word) : List Txn :=
  hostSBS a.toNat bs ++ hostREGION a (BitVec.ofNat 32 bs.length) da dc

/-- End with the DST_LEN bytes at `a`, the output of the last command. -/
def hostOutput (a : Word) : HostProgram (Except Word (List Byte)) :=
  hostRead (hostRD .dstLen) (fun n => hostLoad n.toNat a.toNat (fun bs => .done (.ok bs)))

/-! ### Pack and unpack -/

/-- The pack sequence (R181): the payload to A, MAP_B2G to G, the external encoder on WIDTH, HEIGHT and the grid as read back,
its container to C, CHK_INSPAD to D; the result is the final container, or the error of a command. -/
def packProgram (encoder : Nat → Nat → List Byte → List Byte) (payload : List Byte) (a g capG c d capD : Word) :
    HostProgram (Except Word (List Byte)) :=
  hostDo (hostSource payload a g capG) <|
  hostChecked .mapB2g <|
  hostRead (hostRD .width) fun w =>
  hostRead (hostRD .height) fun h =>
  hostLoad (4 * w.toNat * h.toNat) g.toNat fun grid =>
  hostDo (hostSource (encoder w.toNat h.toNat grid) c d capD) <|
  hostChecked .chkInspad <|
  hostOutput d

/-- The order R182 writes its steps 2 to 4 in; they may run in any order. -/
def unpackOrder : List Instr := [.chkHdr, .chkPlen, .chkIdat]

/-- What goes before each of the steps 2 to 4: CHK_IDAT has a destination of its own. -/
def unpackRegion (region : List Txn) : Instr → List Txn
  | .chkIdat => region
  | _ => []

/-- The steps 2 to 4 of the unpack sequence in the given order, each checked. -/
def unpackParses {α : Type} (region : List Txn) (order : List Instr) (next : HostProgram (Except Word α)) :
    HostProgram (Except Word α) :=
  order.foldr (fun i p => hostDo (unpackRegion region i) (hostChecked i p)) next

/-- The unpack sequence (R182): the container to C, CHK_HDR, CHK_PLEN and CHK_IDAT to P, the external decompressor on the
payload as read back (a failure of its own is reported with code 7, R183, R204), the scanlines to F, FLT_RECON to R, MAP_G2B to
B; the result is the payload, or the error of the first command that fails, and nothing else. -/
def unpackProgram (decompress : List Byte → Option (List Byte)) (order : List Instr) (container : List Byte)
    (c p capP f r capR b capB : Word) : HostProgram (Except Word (List Byte)) :=
  hostDo (hostSource container c 0 0) <|
  unpackParses (hostREGION c (BitVec.ofNat 32 container.length) p capP) order <|
  hostRead (hostRD .dstLen) fun n =>
  hostLoad n.toNat p.toNat fun payload =>
  match decompress payload with
  | none => .done (.error (ErrCode.decompressionFailure.toByte.setWidth 32))
  | some scanlines =>
    hostDo (hostSource scanlines f r capR) <|
    hostChecked .fltRecon <|
    hostRead (hostRD .width) fun w =>
    hostRead (hostRD .height) fun h =>
    hostDo (hostREGION r (BitVec.ofNat 32 (4 * w.toNat * h.toNat)) b capB) <|
    hostChecked .mapG2b <|
    hostOutput b

end Sys2Proof.Machine
end

