-- ==== Sys2Proof/Safety.lean ====
section
/-! DEFINITION. What claims are stated in: the invariant of PPCB's state, the host's duties (43_orchestration.md R184)
and the duty of the external encoder (R183). -/

namespace Sys2Proof.Machine

/-- The buffer memory is in its canonical form, inside a memory of a size R6 allows. -/
def State.memoryOk (s : State) : Bool :=
  s.mem.wf s.memSize.toNat && decide (16 ≤ s.memSize.toNat) && decide (s.memSize.toNat ≤ 2 ^ 31)

/-- ID and MAXDIM hold their constants (R22, R24); SIG and the tags are some admissible ones (00_scope.md R6). -/
def State.constantsOk (s : State) : Bool :=
  s.id == 0x50504342 && s.maxDim == BitVec.ofNat 32 Config.maxDim && s.format.wellFormed

/-- BUSY = 1 implies DONE = 0 and ERR = 0 (R27), and no error record (R42); ERR = 1 comes with an error code; code 7 is
never raised (R204). -/
def State.statusOk (s : State) : Bool :=
  (!s.busy || (!s.done && !s.err && s.errCode == .none && s.errInfo == 0)) &&
    (!s.err || s.errCode != .none) && s.errCode != .decompressionFailure

/-- An idle sequencer holds nothing (R44, R49); a busy one holds the last accepted word and the operand registers as they
stand, which no host write has changed since (R42, R61). -/
def State.latchOk (s : State) : Bool :=
  if s.busy then s.latch == s.snapshot s.cmd else s.latch == Latch.empty

/-- A row walk belongs to an FLT_RECON whose checks have passed, at one of its rows or past the last; otherwise no row
is held. -/
def State.rowsOk (s : State) : Bool :=
  match s.phase with
  | .idle | .command => s.row == 0
  | .rows =>
    (decodeCommand s.latch.word).toOption == some .fltRecon &&
      fltCheck s.memSize.toNat s.latch == none && decide (s.row ≤ s.latch.height.toNat)

/-- While BUSY = 1 the result registers hold what they read as, their values from before the acceptance (R41, R61), and the
destination region of the command in flight is one whose bytes the host cannot read yet (20_memory.md R60). -/
def State.visibilityOk (s : State) : Bool :=
  !s.busy || (s.old == s.results && (!hasDestination s.latch.word || s.unseen.contains s.latch.dstRegion))

/-- If a command has completed before any host access, the host's next event is no read: a write, or taking the interrupt that
is there to be taken (R42; log 22). -/
def State.acceptedOk (s : State) : Bool :=
  !s.justAccepted || s.busy ||
    match s.host with
    | [] => true
    | p :: _ =>
      match p.event with
      | .access t => t.dir == .write
      | .interrupt => s.irq

/-- The invariant of PPCB's state. -/
def State.inv (s : State) : Bool :=
  s.memoryOk && s.constantsOk && s.statusOk && s.latchOk && s.rowsOk && s.visibilityOk && s.acceptedOk

/-- Both region checks of a command with output pass (60_exceptions.md R192, R193). -/
def State.regionsOk (s : State) : Bool :=
  s.latch.srcInRange s.memSize.toNat && s.latch.dstInRange s.memSize.toNat && !s.latch.overlap

/-- `m'` is `m` with the byte string `bs` stored from address `a` on and every other byte as before. -/
def Memory.Stores (m m' : Memory) (a : Nat) (bs : List Byte) : Prop :=
  (∀ k, k < bs.length → m'.read (a + k) = bs.getD k 0) ∧
    ∀ x, x < a ∨ a + bs.length ≤ x → m'.read x = m.read x

/-- What every filter type does to the current row (41_filter.md R120, R121), for the predictor `pred` of left, up and
leftup: the next state `t` is `s` at the next row, with the row's reconstructed bytes stored and every other byte as
before. The left neighbour and the row's other bytes are read in `t`, the row above in `s`. -/
def RowReconstructed (pred : Nat → Nat → Nat → Nat) (s t : State) : Prop :=
  let n := 4 * s.latch.width.toNat
  let src := s.latch.srcAddr.toNat + s.row * (1 + n) + 1
  let dst := s.latch.dstAddr.toNat + s.row * n
  let above := s.latch.dstAddr.toNat + (s.row - 1) * n
  t = { s with mem := t.mem, row := s.row + 1 } ∧
    (∀ x, x < n →
      (t.mem.read (dst + x)).toNat =
        ((s.mem.read (src + x)).toNat +
          pred (if 4 ≤ x then (t.mem.read (dst + (x - 4))).toNat else 0)
            (if 1 ≤ s.row then (s.mem.read (above + x)).toNat else 0)
            (if 4 ≤ x ∧ 1 ≤ s.row then (s.mem.read (above + (x - 4))).toNat else 0)) % 256) ∧
    ∀ a, a < dst ∨ dst + n ≤ a → t.mem.read a = s.mem.read a

/-- The chunks of the list stand one after the other in the container `c`, the first at offset `p`, the next free offset
after the last being `q` (30_encoding.md R81, R83, R84). -/
def chunksTile (c : List Byte) : Nat → List Chunk → Nat → Prop
  | p, [], q => p = q
  | p, e :: es, q =>
    e.offset = p ∧ e.length = be32At c p ∧ e.tag = tagAt c p ∧ p + 12 + e.length ≤ c.length ∧
      chunksTile c (p + 12 + e.length) es q

/-- `extractPadLength` (42_chunk.md R162): 0 without a pad chunk, nothing from one too short. -/
def padLengthOf (f : ContainerFormat) (c : List Byte) (cs : List Chunk) : Option Nat :=
  match firstChunk cs f.tagPad with
  | none => some 0
  | some e => if e.length < 4 then none else some (be32At c (e.offset + 8))

/-- The unpack sequence (43_orchestration.md R182) returns `out` from the container `c`: the parse, the header, the
payload, the pad length, the host's decompressor, the reconstruction and the mapper, all without error. -/
def Unpacks (f : ContainerFormat) (decompress : List Byte → List Byte) (c out : List Byte) : Prop :=
  ∃ cs h pad grid, parse f c = .ok cs ∧
    firstChunk cs f.tagHdr = some h ∧ 8 ≤ h.length ∧
    allChunks cs f.tagDat ≠ [] ∧
    padLengthOf f c cs = some pad ∧
    (let width := be32At c (h.offset + 8)
     let height := be32At c (h.offset + 12)
     let scanlines := decompress ((allChunks cs f.tagDat).flatMap (chunkData c))
     scanlineNeed width height ≤ scanlines.length ∧ reconAll width height scanlines = .ok grid) ∧
    pad ≤ grid.length ∧ payloadOf grid pad = out

/-! ### The host's duties and liberties (43_orchestration.md R184) -/

/-- What the host has read of the outcome of the last command it issued. That it has observed the completion stands in
the state (`State.old`, `State.unseen`). -/
structure Watch where
  /-- It has read STATUS.ERR since the completion. -/
  readStatus : Bool
  /-- It has read ERR_CODE since it observed the completion. -/
  readCode : Bool
  deriving DecidableEq, Repr

/-- Nothing is open: no command has been issued, or the outcome of the last one has been read. -/
def Watch.settled : Watch := ⟨true, true⟩

/-- The result registers a command can write (10_state.md R47). -/
def resultRegs : List Reg := [.dstLen, .width, .height, .padLen, .chunkCount]

/-- The host has observed the completion of every command: every result register and every buffer byte reads as it
stands (20_memory.md R60). -/
def State.observed (s : State) : Bool := !s.busy && s.old == OldResults.none && s.unseen.isEmpty

/-- The duties of R184 that one transaction can break, when it is made in state `s` by a host that knows `v`:
`load inputs` (buffer and operand registers are written while BUSY = 0), `issue a command` (CMD is written while BUSY = 0),
`wait` (a result register is read after BUSY = 0 has been observed, a buffer byte when its value is visible), `check the
outcome` (STATUS.ERR and ERR_CODE have been read before the next command) and `keep regions apart` (a command's regions share
no byte). The table names no duty for an access that gets a bus error; that such an access counts as a broken duty is the
model's choice (log 24).
The table lists `write during BUSY` and `read the buffer during BUSY` as liberties beside the duties that forbid such
accesses. That a write of CMD, an operand register or the buffer, and any read of the buffer, destination byte or not, breaks a
duty while BUSY = 1 is the model's choice (log 24); `State.liberty` names the liberties, and PPCB's answer to them is
`State.hostAccess`. -/
def Watch.allows (v : Watch) (s : State) (t : Txn) : Bool :=
  t.taken s.memSize.toNat &&
    match t.target, t.dir with
    | .mem _, .write => !s.busy
    | .mem a, .read => s.busDraws a t.width.bytes == 0
    | .reg offset, .read =>
      match regOfOffset offset with
      | some r => !resultRegs.contains r || (!s.busy && s.old.of (some r) == none)
      | none => true
    | .reg offset, .write =>
      match regOfOffset offset with
      | some .cmd =>
        !s.busy && v.readStatus && v.readCode && !(hasDestination t.data && (s.snapshot t.data).overlap)
      | some .srcAddr | some .srcLen | some .dstAddr | some .dstCap | some .width | some .height | some .padLen => !s.busy
      | _ => true

/-- What the host has read after an event in state `s`. That a soft reset, busy or idle, leaves nothing to check is the model's
choice (log 24): the table says `after every command`, and the reset ends the command or erases its outcome. -/
def Watch.after (v : Watch) (s : State) : HostEvent → Watch
  | .interrupt => v
  | .access t =>
    match t.target, t.dir with
    | .mem _, _ => v
    | .reg offset, .read =>
      match regOfOffset offset with
      | some .status => if s.busy then v else { v with readStatus := true }
      | some .errCode => { v with readCode := v.readCode || s.observed }
      | _ => v
    | .reg offset, .write =>
      match regOfOffset offset with
      | some .cmd => if s.busy then v else ⟨false, false⟩
      | some .ctrl => if t.data.getLsbD 1 then Watch.settled else v
      | _ => v

/-- The host keeps these duties in everything it does, and leaves no outcome unread at the end. -/
def dutifulTrace : Watch → List (State × HostEvent) → Bool
  | v, [] => v == Watch.settled
  | v, (s, e) :: rest =>
    (match e with
      | .access t => v.allows s t
      | .interrupt => s.irq) && dutifulTrace (v.after s e) rest

/-- A hand-over (R184, 70_reset_and_hazards.md R229): the command issued by event `producer` of a trace writes `reg`, and
the command issued by event `consumer` is to read that value. -/
structure HandOver where
  producer : Nat
  consumer : Nat
  reg : Reg
  deriving DecidableEq, Repr

/-- The event issues a command that writes `r` at success (10_state.md R47), writes `r`, or resets it. -/
def overwrites (r : Reg) (s : State) : HostEvent → Bool
  | .interrupt => false
  | .access t =>
    match t.target, t.dir with
    | .reg offset, .write =>
      match regOfOffset offset with
      | some .cmd =>
        !s.busy &&
          match decodeCommand t.data with
          | .ok .mapB2g => r == .width || r == .height || r == .padLen
          | .ok .chkHdr => r == .width || r == .height
          | .ok .chkPlen => r == .padLen
          | _ => false
      | some .ctrl => t.data.getLsbD 1
      | some q => q == r && !s.busy
      | none => false
    | _, _ => false

/-- The value `r` holds when the command issued by event `k` has completed: in the first state after it that the host meets with
BUSY = 0. -/
def valueAfter (tr : List (State × HostEvent)) (k : Nat) (r : Reg) : Option Word :=
  ((tr.drop (k + 1)).find? (fun p => !p.1.busy)).map (fun p => p.1.regValue (some r))

/-- `carry WIDTH, HEIGHT, PAD_LEN between commands`: nothing overwrites the register between the two commands, or what the
producer left in it has been put back (R229). What counts as overwriting and as put back is log 26's. -/
def HandOver.kept (h : HandOver) (tr : List (State × HostEvent)) : Bool :=
  ((tr.take h.consumer).drop (h.producer + 1)).all (fun p => !overwrites h.reg p.1 p.2) ||
    (tr[h.consumer]?.map (fun p => p.1.regValue (some h.reg))) == valueAfter tr h.producer h.reg

/-- All the duties of R184 that a trace shows, for the hand-overs the host means to make. R35 to R37 let the host write WIDTH,
HEIGHT and PAD_LEN, R184 and R229 forbid it between a producer and its consumer, and no rule says which pairs of commands those
are in a given run: that `carry` binds the hand-overs of `plan` and no other, so that with an empty plan no overwrite breaks it,
is the model's choice (log 26). The duty on the encoder and the decompressor is `encoderDuty` and `filterDuty`. -/
def keepsDuties (tr : List (State × HostEvent)) (plan : List HandOver) : Bool :=
  dutifulTrace Watch.settled tr && plan.all (fun h => h.kept tr)

/-- The liberties of R184. -/
inductive Liberty where
  | writeDuringBusy
  | readBufferDuringBusy
  | abort
  | clearStatus
  deriving DecidableEq, Repr

/-- The liberty a transaction takes in state `s`, if it takes one. What PPCB gives back is `State.hostAccess`. Where two rows of
the table fit, which one is named is the model's choice, as is that every write of STATUS is a `clear status` and that an
access with a bus error is named by its target (log 25). -/
def State.liberty (s : State) (t : Txn) : Option Liberty :=
  match t.target, t.dir with
  | .mem _, .read => if s.busy then some .readBufferDuringBusy else none
  | .mem _, .write => if s.busy then some .writeDuringBusy else none
  | .reg _, .read => none
  | .reg offset, .write =>
    match regOfOffset offset with
    | some .ctrl => if t.data.getLsbD 1 then some .abort else if s.busy then some .writeDuringBusy else none
    | some .status => some .clearStatus
    | _ => if s.busy then some .writeDuringBusy else none

/-! ### The external steps -/

/-- The duty of the external encoder (R183) for a grid of `width` times `height` pixels: a container that parses, whose
first header chunk holds WIDTH and HEIGHT, with at least one data chunk, whose data is `payload`, an end marker, and
no pad chunk. -/
def encoderDuty (f : ContainerFormat) (container payload : List Byte) (width height : Nat) : Prop :=
  ∃ cs h e, parse f container = .ok cs ∧
    firstChunk cs f.tagHdr = some h ∧ 8 ≤ h.length ∧
    be32At container (h.offset + 8) = width ∧ be32At container (h.offset + 12) = height ∧
    allChunks cs f.tagDat ≠ [] ∧
    (allChunks cs f.tagDat).flatMap (chunkData container) = payload ∧
    firstChunk cs f.tagEnd = some e ∧
    firstChunk cs f.tagPad = none

/-- The duty of the external encoder on the scanlines (R183): PPCB's reconstruction returns the grid. -/
def filterDuty (scanlines grid : List Byte) (width height : Nat) : Prop :=
  scanlineNeed width height ≤ scanlines.length ∧ reconAll width height scanlines = .ok grid

end Sys2Proof.Machine
end

