-- ==== Sys2Proof/Certificates/Slice0/Obligations.lean ====
section
/-! DEFINITION. The statements for the provers, each with the rule of spec/ it formalises. -/

open Sys2Proof Sys2Proof.Machine

/-! ### Encoding -/

/-- R71, R76: the thirteen rows of the opcode table decode to their instructions; R72, R77: some words that are in no row
are refused (95_test_vectors.md X1 to X3, F6, F7). -/
def Obligations.DecoderReadsTableWords : Prop :=
  decodeTableWord 32 0x00000001 = some .mapB2g ∧ decodeTableWord 32 0x00000002 = some .mapG2b ∧
  decodeTableWord 32 0x00000011 = some .fltRecon ∧ decodeTableWord 32 0x00000021 = some .chkScan ∧
  decodeTableWord 32 0x00000022 = some .chkHdr ∧ decodeTableWord 32 0x00000023 = some .chkIdat ∧
  decodeTableWord 32 0x00000024 = some .chkPlen ∧ decodeTableWord 32 0x00000025 = some .chkInspad ∧
  decodeTableWord 8 0x00 = some .ftNone ∧ decodeTableWord 8 0x01 = some .ftSub ∧
  decodeTableWord 8 0x02 = some .ftUp ∧ decodeTableWord 8 0x03 = some .ftAverage ∧
  decodeTableWord 8 0x04 = some .ftPaeth ∧
  decodeTableWord 32 0x00000000 = none ∧ decodeTableWord 32 0x00000100 = none ∧
  decodeTableWord 32 0x00000003 = none ∧ decodeTableWord 32 0x00000012 = none ∧
  decodeTableWord 32 0x00000026 = none ∧ decodeTableWord 8 0x05 = none ∧ decodeTableWord 8 0xFF = none

/-- R71, R76: decoding an instruction's encoding gives the instruction back. -/
def Obligations.EncodeThenDecode : Prop :=
  ∀ i : Instr, decode (encode i) = .ok i ∧ (encode i).wellFormed = true ∧ i.wellFormed = true

/-- R71, R72, R76, R77: a command word and a filter-type byte decode to the one instruction they encode; every other of
the 2^32 words and the bytes 5 to 255 are refused by name. -/
def Obligations.EncodingsDecodeExactly : Prop :=
  (∀ (w : Word) (i : Instr), decodeCommand w = .ok i ↔ encode i = .command w) ∧
    (∀ w : Word, (∀ i : Instr, encode i ≠ .command w) → decodeCommand w = .error (.illegalCommand w)) ∧
    (∀ (b : Byte) (i : Instr), decodeFilter b = .ok i ↔ encode i = .filter b) ∧
    ∀ b : Byte, 5 ≤ b.toNat → decodeFilter b = .error (.invalidFilter b)

/-! ### The step -/

/-- R42, R64, R75, R120: with the sequencer to move, the step runs the instruction the latched word decodes to, and in
the row walk the filter type whose byte heads the current scanline. It is the sequencer's turn exactly when a command is in
flight and the host's next event, if there is one, still waits and is not one that R42 puts first: after an acceptance the next
access that is a read, or a taking of the interrupt while IRQ_EN = 0 (log 22). `tick` then lowers that event's waiting count
by one and touches nothing else. The host queue and the row steps are the model's choice (log 7, log 8). -/
def Obligations.StepRunsDecodedInstruction : Prop :=
  (∀ (s : State) (i : Instr), s.turn = .sequencer →
    (s.phase = .command → decodeCommand s.latch.word = .ok i → step s = exec i s.tick) ∧
    (s.phase = .rows → s.row < s.latch.height.toNat →
      decodeFilter (s.mem.read (s.latch.srcAddr.toNat + s.row * (1 + 4 * s.latch.width.toNat))) = .ok i →
      step s = exec i s.tick)) ∧
  ∀ s : State,
    (s.turn = .sequencer ↔
      s.phase ≠ .idle ∧ (s.host = [] ∨ ∃ (p : Pending) (rest : List Pending), s.host = p :: rest ∧ 0 < p.after ∧
        (s.justAccepted = true →
          (∀ t : Txn, p.event = .access t → t.dir = .write) ∧ (p.event = .interrupt → s.irqEn = true)))) ∧
    (s.host = [] → s.tick = s) ∧
    ∀ (p : Pending) (rest : List Pending), s.host = p :: rest →
      s.tick = { s with host := ⟨p.after - 1, p.event⟩ :: rest }

/-- R20: the host moves while no command is in flight, and while one is as soon as its event waits for no more
sequencer steps; R220: with nothing to do PPCB stays as it is. R42: the next host access after an acceptance, if it is a read,
does not wait, and in a state of the invariant it meets BUSY = 1; that a write may find the command completed is what
95_test_vectors.md P4 and P5 say (log 22). An event is a bus transaction, or taking the interrupt, which is possible while IRQ is
high (R199) and is the observation of BUSY = 0 (R60). That taking it while IRQ is low changes nothing is the model's choice
(log 23), and so is the host queue (log 8). -/
def Obligations.StepMakesHostTransaction : Prop :=
  (∀ (s : State) (p : Pending) (rest : List Pending), s.host = p :: rest → (s.phase = .idle ∨ p.after = 0) →
    step s = .next ({ s with host := rest }.hostEvent p.event)) ∧
  (∀ s : State, s.host = [] → s.phase = .idle → step s = .next s) ∧
  (∀ (s : State) (t : Txn) (n : Nat) (rest : List Pending),
    s.justAccepted = true → t.dir = .read → s.host = ⟨n, .access t⟩ :: rest →
      step s = .next ({ s with host := rest }.hostEvent (.access t)) ∧ (s.inv = true → s.phase ≠ .idle)) ∧
  (∀ (s : State) (t : Txn), s.hostEvent (.access t) = { s with justAccepted := false }.hostAccess t) ∧
  ∀ s : State,
    (s.irq = true → s.hostEvent .interrupt =
      { s with old := ⟨none, none, none, none, none⟩, unseen := [], justAccepted := false }) ∧
    (s.irq = false → s.hostEvent .interrupt = s)

/-- R191 (and R72): an accepted illegal word fails at once with ILLEGAL_COMMAND and the word; no region is checked and
no buffer byte or result register is touched. -/
def Obligations.IllegalWordFails : Prop :=
  ∀ s : State, s.turn = .sequencer → s.phase = .command → (∀ i : Instr, encode i ≠ .command s.latch.word) →
    step s = .next { s with
      phase := .idle, done := true, err := true, errCode := .illegalCommand, errInfo := s.latch.word,
      latch := Latch.empty, row := 0, host := s.tick.host }

/-- R128: a row whose filter byte is 5 to 255 fails FLT_RECON with INVALID_FILTER and the offset of the byte; only
destination bytes may have changed (R197). -/
def Obligations.InvalidFilterByteFails : Prop :=
  ∀ s : State, s.turn = .sequencer → s.phase = .rows → s.row < s.latch.height.toNat →
    5 ≤ (s.mem.read (s.latch.srcAddr.toNat + s.row * (1 + 4 * s.latch.width.toNat))).toNat →
    ∃ t : State, step s = .next t ∧
      t = { s with
        phase := .idle, done := true, err := true, errCode := .invalidFilter,
        errInfo := BitVec.ofNat 32 (s.row * (1 + 4 * s.latch.width.toNat)),
        latch := Latch.empty, row := 0, host := s.tick.host, mem := t.mem, draws := t.draws } ∧
      ∀ a, a < s.latch.dstAddr.toNat ∨
          s.latch.dstAddr.toNat + 4 * s.latch.width.toNat * s.latch.height.toNat ≤ a →
        t.mem.read a = s.mem.read a

/-- R120, R198: after the last row the command succeeds with DST_LEN = 4*WIDTH*HEIGHT. -/
def Obligations.RowWalkCompletes : Prop :=
  ∀ s : State, s.turn = .sequencer → s.phase = .rows → s.latch.height.toNat ≤ s.row →
    step s = .next { s with
      phase := .idle, done := true, latch := Latch.empty, row := 0, host := s.tick.host,
      dstLen := BitVec.ofNat 32 (4 * s.latch.width.toNat * s.latch.height.toNat) }

/-! ### Reset, acceptance and the host port -/

/-- R220: what power-on reset leaves, and that PPCB then runs nothing. That MAX_DIM is 0x8000 is the default the model takes
(log 2); that the host queue is empty is its choice (log 8). -/
def Obligations.PowerOnReset : Prop :=
  State.reset.readReg (some .id) = 0x50504342 ∧
  (16 ≤ Config.memBytes ∧ Config.memBytes ≤ 2 ^ 31 ∧
    (State.reset.readReg (some .memSize)).toNat = Config.memBytes) ∧
  State.reset.readReg (some .maxDim) = 0x00008000 ∧
  (∀ r : Reg, r ≠ .id → r ≠ .memSize → r ≠ .maxDim → State.reset.readReg (some r) = 0) ∧
  State.reset.phase = .idle ∧ State.reset.latch = Latch.empty ∧ State.reset.irq = false ∧
  step State.reset = .next State.reset

/-- R42: the acceptance step, for every command word, illegal ones included. R60: from it on, until BUSY = 0 is observed, the
host reads the result registers as they are now and any value from the destination region, which six commands have; the
fields that say so, and that the next access is the one that observes BUSY = 1, are the model's (log 22, log 23). The acknowledgement is the model's choice (log 19), here and below. -/
def Obligations.AcceptanceStep : Prop :=
  ∀ (s : State) (w : Word), s.phase = .idle →
    s.hostAccess ⟨.write, .reg 0x10, .w32, w⟩ = { s with
      cmd := w, phase := .command, done := false, err := false, errCode := .none, errInfo := 0,
      latch := ⟨w, s.srcAddr, s.srcLen, s.dstAddr, s.dstCap, s.width, s.height, s.padLen⟩, row := 0,
      old := ⟨some s.dstLen, some s.width, some s.height, some s.padLen, some s.chunkCount⟩,
      unseen := if w ∈ [0x01, 0x02, 0x11, 0x21, 0x23, (0x25 : Word)] then ⟨s.dstAddr.toNat, s.dstCap.toNat⟩ :: s.unseen
        else s.unseen,
      justAccepted := true,
      responses := .ack :: s.responses }

/-- R30 to R33, R35 to R37: the operand registers a host write sets while BUSY = 0, and nothing else; R25: a write of CTRL
with SRST = 0 sets IRQ_EN, and nothing else. That WIDTH, HEIGHT or PAD_LEN then reads as written, whether or not the host has
observed BUSY = 0, is the model's choice (log 23). -/
def Obligations.OperandWritesWhileIdle : Prop :=
  ∀ (s : State) (v : Word), s.phase = .idle →
    s.hostAccess ⟨.write, .reg 0x20, .w32, v⟩ = { s with srcAddr := v, responses := .ack :: s.responses } ∧
    s.hostAccess ⟨.write, .reg 0x24, .w32, v⟩ = { s with srcLen := v, responses := .ack :: s.responses } ∧
    s.hostAccess ⟨.write, .reg 0x28, .w32, v⟩ = { s with dstAddr := v, responses := .ack :: s.responses } ∧
    s.hostAccess ⟨.write, .reg 0x2C, .w32, v⟩ = { s with dstCap := v, responses := .ack :: s.responses } ∧
    s.hostAccess ⟨.write, .reg 0x34, .w32, v⟩ = 
      { s with width := v, old := { s.old with width := none }, responses := .ack :: s.responses } ∧
    s.hostAccess ⟨.write, .reg 0x38, .w32, v⟩ = 
      { s with height := v, old := { s.old with height := none }, responses := .ack :: s.responses } ∧
    s.hostAccess ⟨.write, .reg 0x3C, .w32, v⟩ = 
      { s with padLen := v, old := { s.old with padLen := none }, responses := .ack :: s.responses } ∧
    (v.getLsbD 1 = false →
      s.hostAccess ⟨.write, .reg 0x0C, .w32, v⟩ = { s with irqEn := v.getLsbD 0, responses := .ack :: s.responses })

/-- R21 to R38: what a host read of each register returns, with the bits of CTRL, STATUS and ERR_CODE (R25, R27, R28),
the numbers of the error codes as ERR_CODE reads them (R190). A result register reads as its old value, if the host has not
observed BUSY = 0 yet (R60, R225; log 23). A STATUS read with BUSY = 0 or DONE = 1 is that observation (R60); no read changes
anything else (R58). -/
def Obligations.RegisterReads : Prop :=
  ∀ s : State,
    (∀ (off : BitVec 8) (d : Word), off.toNat % 4 = 0 → off ≠ 0x14 →
      s.hostAccess ⟨.read, .reg off, .w32, d⟩ =
        { s with responses := .data (s.readReg (regOfOffset off)) :: s.responses }) ∧
    (∀ d : Word, s.phase = .idle ∨ s.done = true →
      s.hostAccess ⟨.read, .reg 0x14, .w32, d⟩ = { s with
        old := ⟨none, none, none, none, none⟩, unseen := [],
        responses := .data (s.readReg (regOfOffset 0x14)) :: s.responses }) ∧
    (∀ d : Word, s.phase ≠ .idle → s.done = false →
      s.hostAccess ⟨.read, .reg 0x14, .w32, d⟩ =
        { s with responses := .data (s.readReg (regOfOffset 0x14)) :: s.responses }) ∧
    s.readReg (regOfOffset 0x00) = s.id ∧ s.readReg (regOfOffset 0x04) = s.memSize ∧
    s.readReg (regOfOffset 0x08) = s.maxDim ∧
    (∀ k, (s.readReg (regOfOffset 0x0C)).getLsbD k = (decide (k = 0) && s.irqEn)) ∧
    s.readReg (regOfOffset 0x10) = s.cmd ∧
    (∀ k, (s.readReg (regOfOffset 0x14)).getLsbD k =
      match k with
      | 0 => decide (s.phase ≠ .idle)
      | 1 => s.done
      | 2 => s.err
      | 3 => s.ovr
      | _ => false) ∧
    [ErrCode.none, .badSignature, .truncatedChunk, .missingEndMarker, .invalidFilter, .missingHeader, .missingPayload,
      .decompressionFailure, .illegalCommand, .shortField, .badPadLength, .shortScanlineData, .dstOverflow, .regionRange,
      .regionOverlap].map (fun c => State.readReg { s with errCode := c } (regOfOffset 0x18)) =
      [0, 1, 2, 3, 4, 5, 6, 7, 8, 9, 10, 11, 12, 13, 14] ∧
    s.readReg (regOfOffset 0x1C) = s.errInfo ∧ s.readReg (regOfOffset 0x20) = s.srcAddr ∧
    s.readReg (regOfOffset 0x24) = s.srcLen ∧ s.readReg (regOfOffset 0x28) = s.dstAddr ∧
    s.readReg (regOfOffset 0x2C) = s.dstCap ∧ s.readReg (regOfOffset 0x30) = s.old.dstLen.getD s.dstLen ∧
    s.readReg (regOfOffset 0x34) = s.old.width.getD s.width ∧ s.readReg (regOfOffset 0x38) = s.old.height.getD s.height ∧
    s.readReg (regOfOffset 0x3C) = s.old.padLen.getD s.padLen ∧
    s.readReg (regOfOffset 0x40) = s.old.chunkCount.getD s.chunkCount

/-- R39: reserved offsets read 0, and writes to them and to the read-only registers are ignored without OVR, at any
time. The acknowledgement is the model's choice (log 19). -/
def Obligations.ReservedAndReadOnly : Prop :=
  ∀ (s : State) (off : BitVec 8) (v : Word), off.toNat % 4 = 0 →
    (0x44 ≤ off.toNat → s.hostAccess ⟨.read, .reg off, .w32, v⟩ = { s with responses := .data 0 :: s.responses }) ∧
    (0x44 ≤ off.toNat ∨ off ∈ [0x00, 0x04, 0x08, 0x18, 0x1C, 0x30, (0x40 : BitVec 8)] →
      s.hostAccess ⟨.write, .reg off, .w32, v⟩ = { s with responses := .ack :: s.responses })

/-- R27, R200: a write of STATUS clears the DONE, ERR and OVR bits that are written 1, keeps the others, and changes
nothing else, BUSY or not. That a host may so clear DONE and keep ERR is read from the field table (log 12). -/
def Obligations.StatusWriteOneToClear : Prop :=
  ∀ (s : State) (v : Word),
    s.hostAccess ⟨.write, .reg 0x14, .w32, v⟩ = { s with
      done := if v.getLsbD 1 then false else s.done
      err := if v.getLsbD 2 then false else s.err
      ovr := if v.getLsbD 3 then false else s.ovr
      responses := .ack :: s.responses }

/-- R61: host accesses while BUSY = 1, row by row of the rule's table; in a state of the invariant the current value of a result
register is the one it holds, from before the acceptance, and DONE is 0. The counter of draws and the acknowledgement are the
model's (log 6, log 19). -/
def Obligations.HostAccessWhileBusy : Prop :=
  ∀ s : State, s.phase ≠ .idle →
    (∀ (off : BitVec 8) (d : Word), off.toNat % 4 = 0 → (off = 0x14 → s.done = false) →
      s.hostAccess ⟨.read, .reg off, .w32, d⟩ =
        { s with responses := .data (s.readReg (regOfOffset off)) :: s.responses }) ∧
    (s.inv = true →
      s.done = false ∧ s.readReg (regOfOffset 0x30) = s.dstLen ∧ s.readReg (regOfOffset 0x34) = s.width ∧
      s.readReg (regOfOffset 0x38) = s.height ∧ s.readReg (regOfOffset 0x3C) = s.padLen ∧
      s.readReg (regOfOffset 0x40) = s.chunkCount) ∧
    (∀ v : Word, v.getLsbD 1 = false →
      s.hostAccess ⟨.write, .reg 0x0C, .w32, v⟩ =
        { s with irqEn := v.getLsbD 0, responses := .ack :: s.responses }) ∧
    (∀ v : Word, v.getLsbD 1 = true →
      s.hostAccess ⟨.write, .reg 0x0C, .w32, v⟩ = { s.softReset with responses := .ack :: s.responses }) ∧
    (∀ v : Word, s.hostAccess ⟨.write, .reg 0x14, .w32, v⟩ = { s with
      done := s.done && !v.getLsbD 1, err := s.err && !v.getLsbD 2, ovr := s.ovr && !v.getLsbD 3,
      responses := .ack :: s.responses }) ∧
    (∀ (off : BitVec 8) (v : Word), off ∈ [0x10, 0x20, 0x24, 0x28, 0x2C, 0x34, 0x38, (0x3C : BitVec 8)] →
      s.hostAccess ⟨.write, .reg off, .w32, v⟩ = { s with ovr := true, responses := .ack :: s.responses }) ∧
    (∀ (off : BitVec 8) (v : Word), off.toNat % 4 = 0 →
      0x44 ≤ off.toNat ∨ off ∈ [0x00, 0x04, 0x08, 0x18, 0x1C, 0x30, (0x40 : BitVec 8)] →
      s.hostAccess ⟨.write, .reg off, .w32, v⟩ = { s with responses := .ack :: s.responses }) ∧
    (∀ (a : Nat) (v : Word), a < s.memSize.toNat →
      s.hostAccess ⟨.write, .mem a, .w8, v⟩ = { s with ovr := true, responses := .ack :: s.responses } ∧
      ∃ b : Byte, s.hostAccess ⟨.read, .mem a, .w8, v⟩ =
        { s with responses := .data (b.setWidth 32) :: s.responses, draws := s.draws + 1 }) ∧
    (∀ (a : Nat) (v : Word), a % 4 = 0 → a + 4 ≤ s.memSize.toNat →
      s.hostAccess ⟨.write, .mem a, .w32, v⟩ = { s with ovr := true, responses := .ack :: s.responses } ∧
      ∃ r : Word, s.hostAccess ⟨.read, .mem a, .w32, v⟩ =
        { s with responses := .data r :: s.responses, draws := s.draws + 4 })

/-- R52, R54: an access of another width or alignment than the rules allow, or outside the aperture, gets a bus error
response and changes nothing; the accesses the rules allow do not. That this holds while BUSY = 1 as well is read from
the rules by inference (log 11). -/
def Obligations.BusErrors : Prop :=
  ∀ (s : State) (dir : Dir) (v : Word),
    (∀ a : Nat,
      s.hostAccess ⟨dir, .mem a, .w16, v⟩ = { s with responses := .busError :: s.responses } ∧
      (s.memSize.toNat ≤ a →
        s.hostAccess ⟨dir, .mem a, .w8, v⟩ = { s with responses := .busError :: s.responses }) ∧
      (a % 4 ≠ 0 ∨ s.memSize.toNat < a + 4 →
        s.hostAccess ⟨dir, .mem a, .w32, v⟩ = { s with responses := .busError :: s.responses }) ∧
      (a < s.memSize.toNat →
        ∃ r, r ≠ Response.busError ∧ (s.hostAccess ⟨dir, .mem a, .w8, v⟩).responses = r :: s.responses) ∧
      (a % 4 = 0 → a + 4 ≤ s.memSize.toNat →
        ∃ r, r ≠ Response.busError ∧ (s.hostAccess ⟨dir, .mem a, .w32, v⟩).responses = r :: s.responses)) ∧
    ∀ (off : BitVec 8) (width : Width),
      (width ≠ .w32 ∨ off.toNat % 4 ≠ 0 →
        s.hostAccess ⟨dir, .reg off, width, v⟩ = { s with responses := .busError :: s.responses }) ∧
      (off.toNat % 4 = 0 →
        ∃ r, r ≠ Response.busError ∧ (s.hostAccess ⟨dir, .reg off, .w32, v⟩).responses = r :: s.responses)

/-- R52, R53: host reads and writes of the buffer while BUSY = 0: an 8-bit access reaches one byte; a 32-bit access
carries byte a on bits 7:0, a+1 on bits 15:8, a+2 on bits 23:16 and a+3 on bits 31:24. R60, R225: a byte of the destination
region of a command accepted since the host last observed BUSY = 0 reads as any value, unless the host has written it since
(R69). That an 8-bit answer is
zero-extended is the model's choice (log 19), and so are the list of those regions (log 23) and the count of draws (log 6). -/
def Obligations.BufferReadsAndWrites : Prop :=
  ∀ (s : State) (a : Nat) (v : Word) (b : Byte), s.phase = .idle →
    let anyValue : Nat → Prop := fun x => ∃ g ∈ s.unseen, g.addr ≤ x ∧ x < g.addr + g.len
    (a < s.memSize.toNat →
      (∃ t : State, s.hostAccess (hostSB a b) = t ∧
        t = { s with mem := t.mem, unseen := t.unseen, responses := .ack :: s.responses } ∧ t.mem.read a = b ∧
        (∀ x, x ≠ a → t.mem.read x = s.mem.read x) ∧
        ∀ x, (∃ g ∈ t.unseen, g.addr ≤ x ∧ x < g.addr + g.len) ↔ anyValue x ∧ x ≠ a) ∧
      (¬ anyValue a →
        ∃ r : Word, s.hostAccess (hostLB a) = { s with responses := .data r :: s.responses } ∧
          r.toNat = (s.mem.read a).toNat) ∧
      (anyValue a →
        ∃ r : Byte, s.hostAccess (hostLB a) =
          { s with responses := .data (r.setWidth 32) :: s.responses, draws := s.draws + 1 })) ∧
    (a % 4 = 0 → a + 4 ≤ s.memSize.toNat →
      (∃ t : State, s.hostAccess ⟨.write, .mem a, .w32, v⟩ = t ∧
        t = { s with mem := t.mem, unseen := t.unseen, responses := .ack :: s.responses } ∧
        (t.mem.read a).toNat = v.toNat % 2 ^ 8 ∧ (t.mem.read (a + 1)).toNat = v.toNat / 2 ^ 8 % 2 ^ 8 ∧
        (t.mem.read (a + 2)).toNat = v.toNat / 2 ^ 16 % 2 ^ 8 ∧ (t.mem.read (a + 3)).toNat = v.toNat / 2 ^ 24 ∧
        (∀ x, x < a ∨ a + 4 ≤ x → t.mem.read x = s.mem.read x) ∧
        ∀ x, (∃ g ∈ t.unseen, g.addr ≤ x ∧ x < g.addr + g.len) ↔ anyValue x ∧ (x < a ∨ a + 4 ≤ x)) ∧
      ∃ (r : Word) (d : Nat), s.hostAccess ⟨.read, .mem a, .w32, v⟩ =
          { s with responses := .data r :: s.responses, draws := s.draws + d } ∧
        (∀ k, k < 4 → ¬ anyValue (a + k) → r.toNat / 2 ^ (8 * k) % 2 ^ 8 = (s.mem.read (a + k)).toNat) ∧
        ((∀ k, k < 4 → ¬ anyValue (a + k)) → d = 0) ∧ (∀ k, k < 4 → anyValue (a + k) → d = 4))

/-- R222: a write of 1 to CTRL.SRST gives every register its reset value, idles the sequencer and lowers IRQ; while
BUSY = 0 it writes no buffer byte. The two premises are what reset leaves and no step changes. IRQ_EN is reset whatever
the written bit 0 is (log 16). -/
def Obligations.SoftResetRegisters : Prop :=
  ∀ (s : State) (v : Word), s.inv = true → s.memSize = BitVec.ofNat 32 Config.memBytes → v.getLsbD 1 = true →
    ∃ t : State, s.hostAccess ⟨.write, .reg 0x0C, .w32, v⟩ = t ∧
      (∀ r : Reg, t.readReg (some r) = State.reset.readReg (some r)) ∧
      t.phase = .idle ∧ t.latch = Latch.empty ∧ t.row = 0 ∧ t.irq = false ∧
      (s.phase = .idle → t.mem = s.mem)

/-- R223: a soft reset during a command leaves DONE, ERR and ERR_CODE 0 and changes no buffer byte outside the
destination region as latched at acceptance; for CHK_HDR and CHK_PLEN it changes none. -/
def Obligations.SoftResetAborts : Prop :=
  ∀ (s : State) (v : Word), s.phase ≠ .idle → v.getLsbD 1 = true →
    ∃ t : State, s.hostAccess ⟨.write, .reg 0x0C, .w32, v⟩ = t ∧
      t.phase = .idle ∧ t.done = false ∧ t.err = false ∧ t.errCode = .none ∧
      t.dstLen = 0 ∧ t.width = 0 ∧ t.height = 0 ∧ t.padLen = 0 ∧ t.chunkCount = 0 ∧
      (∀ a, a < s.latch.dstAddr.toNat ∨ s.latch.dstAddr.toNat + s.latch.dstCap.toNat ≤ a →
        t.mem.read a = s.mem.read a) ∧
      (decodeCommand s.latch.word = .ok .chkHdr ∨ decodeCommand s.latch.word = .ok .chkPlen → t.mem = s.mem)

/-- R199 and R46: the level of IRQ at a completion, and what lowers it. -/
def Obligations.InterruptLevel : Prop :=
  ∀ (s : State) (v : Word),
    (s.irq = true ↔ s.irqEn = true ∧ s.done = true) ∧
    State.reset.irq = false ∧
    (∀ r, (s.finish r).irq = s.irqEn) ∧
    (v.getLsbD 1 = true → (s.hostAccess ⟨.write, .reg 0x14, .w32, v⟩).irq = false) ∧
    (v.getLsbD 0 = false → (s.hostAccess ⟨.write, .reg 0x0C, .w32, v⟩).irq = false) ∧
    (s.phase = .idle → (s.hostAccess ⟨.write, .reg 0x10, .w32, v⟩).irq = false) ∧
    s.softReset.irq = false

/-- R184, R202: a transaction that keeps the host's duties as `Watch.allows` reads them (log 24), whatever the host has read,
gets no bus error and sets no OVR; but for a soft reset during a command it draws no free value. That an access with a bus error
breaks a duty is the model's choice (log 24). -/
def Obligations.DutifulHostNeverOverruns : Prop :=
  ∀ (v : Watch) (s : State) (t : Txn), v.allows s t = true →
    ((s.hostAccess t).ovr = true → s.ovr = true) ∧
    (∃ r, r ≠ Response.busError ∧ (s.hostAccess t).responses = r :: s.responses) ∧
    (¬ (s.phase ≠ .idle ∧ t.target = .reg 0x0C ∧ t.dir = .write ∧ t.data.getLsbD 1 = true) →
      (s.hostAccess t).draws = s.draws)

/-! ### Failures and region checks -/

/-- R196: the failure completion every failing check takes. -/
def Obligations.FailureCompletion : Prop :=
  ∀ (s : State) (c : ErrCode) (info : Word),
    s.fail ⟨c, info⟩ = { s with
      phase := .idle, done := true, err := true, errCode := c, errInfo := info, latch := Latch.empty, row := 0 }

/-- R192: the region range checks of all eight commands, the source first; CHK_HDR and CHK_PLEN ignore DST_ADDR and
DST_CAP, whatever they are. -/
def Obligations.RegionRangeChecks : Prop :=
  ∀ (s : State) (i : Instr),
    (i ∈ [.mapB2g, .mapG2b, .fltRecon, .chkScan, .chkHdr, .chkIdat, .chkPlen, .chkInspad] →
      s.latch.srcLen.toNat ≠ 0 → s.memSize.toNat < s.latch.srcAddr.toNat + s.latch.srcLen.toNat →
      exec i s = .next (s.fail ⟨.regionRange, 0⟩)) ∧
    (i ∈ [.mapB2g, .mapG2b, .fltRecon, .chkScan, .chkIdat, .chkInspad] →
      s.latch.srcLen.toNat = 0 ∨ s.latch.srcAddr.toNat + s.latch.srcLen.toNat ≤ s.memSize.toNat →
      s.latch.dstCap.toNat ≠ 0 → s.memSize.toNat < s.latch.dstAddr.toNat + s.latch.dstCap.toNat →
      exec i s = .next (s.fail ⟨.regionRange, 1⟩)) ∧
    (i ∈ [.chkHdr, .chkPlen] → ∀ da dc : Word,
      exec i { s with latch := { s.latch with dstAddr := da, dstCap := dc } } = exec i s)

/-- R193: the overlap check of the six commands with output, on DST_CAP, after both range checks. -/
def Obligations.RegionOverlapCheck : Prop :=
  ∀ (s : State) (i : Instr), i ∈ [.mapB2g, .mapG2b, .fltRecon, .chkScan, .chkIdat, .chkInspad] →
    s.latch.srcAddr.toNat + s.latch.srcLen.toNat ≤ s.memSize.toNat →
    s.latch.dstAddr.toNat + s.latch.dstCap.toNat ≤ s.memSize.toNat →
    0 < s.latch.srcLen.toNat → 0 < s.latch.dstCap.toNat →
    s.latch.srcAddr.toNat < s.latch.dstAddr.toNat + s.latch.dstCap.toNat →
    s.latch.dstAddr.toNat < s.latch.srcAddr.toNat + s.latch.srcLen.toNat →
    exec i s = .next (s.fail ⟨.regionOverlap, 0⟩)

/-! ### Grid mapper -/

/-- R100, R102: MAP_B2G completes when its regions are sound and the grid fits, with every slot of the grid, the result
registers of R101 to R104, and nothing else changed. -/
def Obligations.MapB2gPacks : Prop :=
  ∀ s : State, s.regionsOk = true →
    let n := s.latch.srcLen.toNat
    let u := (n + 2) / 3
    let h := u / s.maxDim.toNat + 1
    let w := max 1 ((u + h - 1) / h)
    w * h * 4 ≤ s.latch.dstCap.toNat →
    ∃ t : State, exec .mapB2g s = .next t ∧
      t = { s with
        phase := .idle, done := true, latch := Latch.empty, row := 0, mem := t.mem,
        width := t.width, height := t.height, padLen := t.padLen, dstLen := t.dstLen } ∧
      t.width.toNat = w ∧ t.height.toNat = h ∧ t.dstLen.toNat = w * h * 4 ∧
      t.padLen.toNat + (4 * (n / 3) + n % 3) = w * h * 4 ∧
      (∀ j, j < w * h * 4 → t.mem.read (s.latch.dstAddr.toNat + j) =
        if j % 4 = 3 then 255
        else if 3 * (j / 4) + j % 4 < n then s.mem.read (s.latch.srcAddr.toNat + (3 * (j / 4) + j % 4))
        else 0) ∧
      ∀ a, a < s.latch.dstAddr.toNat ∨ s.latch.dstAddr.toNat + w * h * 4 ≤ a → t.mem.read a = s.mem.read a

/-- R100, R105, R194, R195: an output longer than DST_CAP fails MAP_B2G and MAP_G2B with DST_OVERFLOW and the saturated
length, MAP_G2B after the check of R107. -/
def Obligations.MapperOverflows : Prop :=
  ∀ s : State, s.regionsOk = true →
    (let n := s.latch.srcLen.toNat
     let u := (n + 2) / 3
     let h := u / s.maxDim.toNat + 1
     let w := max 1 ((u + h - 1) / h)
     s.latch.dstCap.toNat < w * h * 4 →
     exec .mapB2g s = .next (s.fail ⟨.dstOverflow, BitVec.ofNat 32 (min (w * h * 4) 0xFFFFFFFF)⟩)) ∧
    (let u := s.latch.srcLen.toNat - s.latch.padLen.toNat
     let m := 3 * (u / 4) + u % 4
     s.latch.padLen.toNat ≤ s.latch.srcLen.toNat → s.latch.dstCap.toNat < m →
     exec .mapG2b s = .next (s.fail ⟨.dstOverflow, BitVec.ofNat 32 (min m 0xFFFFFFFF)⟩))

/-- R101: the formulas of the grid's dimensions and the consequences the rule draws. -/
def Obligations.GridDimensions : Prop :=
  (∀ maxDim n : Nat, 0 < maxDim →
    unitWidth n = (n + 2) / 3 ∧
    gridHeight maxDim n = unitWidth n / maxDim + 1 ∧
    (unitWidth n ≠ 0 → gridWidth maxDim n = (unitWidth n + gridHeight maxDim n - 1) / gridHeight maxDim n) ∧
    (unitWidth n = 0 → gridWidth maxDim n = 1) ∧
    1 ≤ gridWidth maxDim n ∧ gridWidth maxDim n ≤ maxDim ∧
    unitWidth n ≤ gridWidth maxDim n * gridHeight maxDim n ∧
    (1 ≤ unitWidth n → gridWidth maxDim n * gridHeight maxDim n - unitWidth n < gridHeight maxDim n)) ∧
  (∀ maxDim k : Nat, 0 < maxDim → ∃ n, k < gridHeight maxDim n) ∧
  ∀ n : Nat, 98302 ≤ n → n ≤ 98304 → unitWidth n = 32768 ∧ gridHeight 32768 n = 2

/-- R103: the pad count by its formula, never more than the grid, and 0, 3 or 2 modulo 4 by the length modulo 3. -/
def Obligations.PadLengthFormula : Prop :=
  ∀ maxDim n : Nat, 0 < maxDim →
    gridTotal maxDim n = gridWidth maxDim n * gridHeight maxDim n * 4 ∧
    gridPad maxDim n + (n / 3 * 4 + n % 3) = gridTotal maxDim n ∧ gridPad maxDim n ≤ gridTotal maxDim n ∧
    (n % 3 = 0 → gridPad maxDim n % 4 = 0) ∧ (n % 3 = 1 → gridPad maxDim n % 4 = 3) ∧
    (n % 3 = 2 → gridPad maxDim n % 4 = 2)

/-- R104: empty input packs to one pixel `00 00 00 FF` with PAD_LEN 4; the clamp to 1 acts there only. -/
def Obligations.EmptyInputPacks : Prop :=
  (∀ s : State, s.regionsOk = true → s.latch.srcLen = 0 → s.maxDim ≠ 0 → 4 ≤ s.latch.dstCap.toNat →
    ∃ t : State, exec .mapB2g s = .next t ∧
      t = { s with
        phase := .idle, done := true, latch := Latch.empty, row := 0, mem := t.mem,
        width := 1, height := 1, padLen := 4, dstLen := 4 } ∧
      s.mem.Stores t.mem s.latch.dstAddr.toNat [0x00, 0x00, 0x00, 0xFF]) ∧
  ∀ maxDim n : Nat, 0 < maxDim → 1 ≤ unitWidth n → 1 ≤ ceilDiv (unitWidth n) (gridHeight maxDim n)

/-- R105, R106: MAP_G2B completes when its regions are sound, PAD_LEN is no larger than SRC_LEN and the output fits: it
skips every fourth byte, reads no byte of the last PAD_LEN, and changes nothing but DST_LEN and the bytes it writes. -/
def Obligations.MapG2bUnpacks : Prop :=
  ∀ s : State, s.regionsOk = true → s.latch.padLen.toNat ≤ s.latch.srcLen.toNat →
    let u := s.latch.srcLen.toNat - s.latch.padLen.toNat
    let m := 3 * (u / 4) + u % 4
    m ≤ s.latch.dstCap.toNat →
    ∃ t : State, exec .mapG2b s = .next t ∧
      t = { s with
        phase := .idle, done := true, latch := Latch.empty, row := 0, mem := t.mem, dstLen := t.dstLen } ∧
      t.dstLen.toNat = m ∧
      (∀ k, k < m → 4 * (k / 3) + k % 3 < u ∧
        t.mem.read (s.latch.dstAddr.toNat + k) = s.mem.read (s.latch.srcAddr.toNat + (4 * (k / 3) + k % 3))) ∧
      ∀ a, a < s.latch.dstAddr.toNat ∨ s.latch.dstAddr.toNat + m ≤ a → t.mem.read a = s.mem.read a

/-- R107: PAD_LEN > SRC_LEN fails MAP_G2B with BAD_PAD_LENGTH and PAD_LEN before any write. -/
def Obligations.BadPadLengthFails : Prop :=
  ∀ s : State, s.regionsOk = true → s.latch.srcLen.toNat < s.latch.padLen.toNat →
    exec .mapG2b s = .next (s.fail ⟨.badPadLength, s.latch.padLen⟩)

/-- R108: MAP_G2B of the MAP_B2G grid with the MAP_B2G pad count gives the payload back, whatever it is; payload byte k
sits at grid offset 4*(k div 3) + (k mod 3). -/
def Obligations.MapperRoundTrip : Prop :=
  ∀ (maxDim : Nat) (payload : List Byte), 0 < maxDim →
    payloadOf (gridOf maxDim payload) (gridPad maxDim payload.length) = payload ∧
    ∀ k, k < payload.length → (gridOf maxDim payload).getD (4 * (k / 3) + k % 3) 0 = payload.getD k 0

/-! ### Scanline filter bank -/

/-- R120: FLT_RECON, when its checks pass, starts the row walk at row 0 and changes nothing else. That the walk is a
sequence of steps of its own is the model's choice (log 7). -/
def Obligations.FltReconStarts : Prop :=
  ∀ s : State, s.regionsOk = true →
    s.latch.height.toNat * (1 + 4 * s.latch.width.toNat) ≤ s.latch.srcLen.toNat →
    4 * s.latch.width.toNat * s.latch.height.toNat ≤ s.latch.dstCap.toNat →
    exec .fltRecon s = .next { s with phase := .rows, row := 0 }

/-- R120, R129, R195: FLT_RECON with a short source fails with SHORT_SCANLINE_DATA, and then, with an output that does
not fit, with DST_OVERFLOW. -/
def Obligations.FltReconSizeErrors : Prop :=
  ∀ s : State, s.regionsOk = true →
    let need := s.latch.height.toNat * (1 + 4 * s.latch.width.toNat)
    let out := 4 * s.latch.width.toNat * s.latch.height.toNat
    (s.latch.srcLen.toNat < need →
      exec .fltRecon s = .next (s.fail ⟨.shortScanlineData, BitVec.ofNat 32 (min need 0xFFFFFFFF)⟩)) ∧
    (need ≤ s.latch.srcLen.toNat → s.latch.dstCap.toNat < out →
      exec .fltRecon s = .next (s.fail ⟨.dstOverflow, BitVec.ofNat 32 (min out 0xFFFFFFFF)⟩))

/-- R123 with R121: filter type None reconstructs the row of any state whose row lies in the memory. -/
def Obligations.FilterNoneRow : Prop :=
  ∀ s : State, s.rowInMemory = true →
    ∃ t : State, exec .ftNone s = .next t ∧ RowReconstructed (fun _ _ _ => 0) s t

/-- R124 with R121: filter type Sub adds the left neighbour. -/
def Obligations.FilterSubRow : Prop :=
  ∀ s : State, s.rowInMemory = true →
    ∃ t : State, exec .ftSub s = .next t ∧ RowReconstructed (fun left _ _ => left) s t

/-- R125 with R121: filter type Up adds the up neighbour. -/
def Obligations.FilterUpRow : Prop :=
  ∀ s : State, s.rowInMemory = true →
    ∃ t : State, exec .ftUp s = .next t ∧ RowReconstructed (fun _ up _ => up) s t

/-- R126 with R121: filter type Average adds half of the exact sum of left and up. The exact sum is the spec's reading, which
the model follows (log 17). -/
def Obligations.FilterAverageRow : Prop :=
  ∀ s : State, s.rowInMemory = true →
    ∃ t : State, exec .ftAverage s = .next t ∧ RowReconstructed (fun left up _ => (left + up) / 2) s t

/-- R127 with R121: filter type Paeth adds the neighbour with the smallest absolute difference from
left + up - leftup, ties going left, then up, then leftup. The estimate left + up - leftup is the spec's, from general
knowledge, which the model follows (log 17). -/
def Obligations.FilterPaethRow : Prop :=
  ∀ s : State, s.rowInMemory = true →
    ∃ t : State, exec .ftPaeth s = .next t ∧
      RowReconstructed (fun left up leftup =>
        let p : Int := (left : Int) + up - leftup
        if |p - left| ≤ |p - up| ∧ |p - left| ≤ |p - leftup| then left
        else if |p - up| ≤ |p - leftup| then up
        else leftup) s t

/-- R120, R122, R129, R130: the whole of FLT_RECON, step by step, is the function of its source bytes, WIDTH and
HEIGHT that R122 says it is: from the state in which it is latched with its checks passed, HEIGHT + 2 steps of the
machine end in success with that function's output stored, or in the failure it gives. The number of steps is the model's
choice (log 7). -/
def Obligations.ReconstructionIsItsFunction : Prop :=
  ∀ s : State, s.inv = true → s.phase = .command → s.latch.word = 0x00000011 → s.host = [] →
    fltCheck s.memSize.toNat s.latch = none →
    ∃ t : State, Host.Core.run Sys2Proof.core (s.latch.height.toNat + 2) s = .next t ∧
      match reconAll s.latch.width.toNat s.latch.height.toNat
        (s.mem.readBytes s.latch.srcAddr.toNat s.latch.srcLen.toNat) with
      | .ok out =>
        out.length = 4 * s.latch.width.toNat * s.latch.height.toNat ∧
        t = { s with
          phase := .idle, done := true, latch := Latch.empty, row := 0, mem := t.mem,
          dstLen := BitVec.ofNat 32 out.length } ∧
        s.mem.Stores t.mem s.latch.dstAddr.toNat out
      | .error f =>
        t = { s.fail f with mem := t.mem, draws := t.draws } ∧
        ∀ a, a < s.latch.dstAddr.toNat ∨
            s.latch.dstAddr.toNat + 4 * s.latch.width.toNat * s.latch.height.toNat ≤ a →
          t.mem.read a = s.mem.read a

/-! ### Chunk codec -/

/-- R81, R83, R84, R151: a container the parse accepts is the signature and then the listed chunks back to back to its
end, each with the length and tag its frame holds. -/
def Obligations.ParseTilesContainer : Prop :=
  ∀ (fmt : ContainerFormat) (c : List Byte) (cs : List Chunk), parse fmt c = .ok cs ↔
    8 ≤ c.length ∧ c.take 8 = fmt.sig ∧ chunksTile c 8 cs c.length

/-- R152, R153: the parse fails with BAD_SIGNATURE exactly on a short or wrong signature, and with TRUNCATED_CHUNK at the
first offset whose chunk does not fit what remains. -/
def Obligations.ParseFailures : Prop :=
  ∀ (fmt : ContainerFormat) (c : List Byte) (f : Failure), parse fmt c = .error f ↔
    ((c.length < 8 ∨ c.take 8 ≠ fmt.sig) ∧ f = ⟨.badSignature, 0⟩) ∨
    (8 ≤ c.length ∧ c.take 8 = fmt.sig ∧
      ∃ (cs : List Chunk) (p : Nat), chunksTile c 8 cs p ∧ p < c.length ∧
        (c.length - p < 8 ∨ c.length - p - 8 < be32At c p + 4) ∧ f = ⟨.truncatedChunk, BitVec.ofNat 32 p⟩)

/-- R150, R195: every chunk command whose regions pass reports a framing error before anything of its own. -/
def Obligations.ChunkCommandsParseFirst : Prop :=
  ∀ (s : State) (f : Failure),
    parse s.format (s.mem.readBytes s.latch.srcAddr.toNat s.latch.srcLen.toNat) = .error f →
    (∀ i, i ∈ [.chkScan, .chkIdat, .chkInspad] → s.regionsOk = true → exec i s = .next (s.fail f)) ∧
    (∀ i, i ∈ [.chkHdr, .chkPlen] → s.latch.srcInRange s.memSize.toNat = true → exec i s = .next (s.fail f))

/-- R157, R88: CHK_SCAN stores one 12-byte descriptor per chunk and commits DST_LEN and CHUNK_COUNT, or fails with
DST_OVERFLOW. -/
def Obligations.ChkScanDescribes : Prop :=
  ∀ (s : State) (cs : List Chunk), s.regionsOk = true →
    parse s.format (s.mem.readBytes s.latch.srcAddr.toNat s.latch.srcLen.toNat) = .ok cs →
    (12 * cs.length ≤ s.latch.dstCap.toNat →
      ∃ t : State, exec .chkScan s = .next t ∧
        t = { s with
          phase := .idle, done := true, latch := Latch.empty, row := 0, mem := t.mem,
          dstLen := t.dstLen, chunkCount := t.chunkCount } ∧
        t.dstLen.toNat = 12 * cs.length ∧ t.chunkCount.toNat = cs.length ∧
        s.mem.Stores t.mem s.latch.dstAddr.toNat
          (cs.flatMap (fun e => bytesBe32 (BitVec.ofNat 32 e.offset) ++ bytesBe32 (BitVec.ofNat 32 e.length) ++ e.tag))) ∧
    (s.latch.dstCap.toNat < 12 * cs.length →
      exec .chkScan s = .next (s.fail ⟨.dstOverflow, BitVec.ofNat 32 (min (12 * cs.length) 0xFFFFFFFF)⟩))

/-- R158, R159: CHK_HDR commits the width and height of the first header chunk, and CHUNK_COUNT; no buffer byte changes,
and DST_ADDR and DST_CAP are not looked at. -/
def Obligations.ChkHdrExtracts : Prop :=
  ∀ (s : State) (cs : List Chunk) (e : Chunk), s.latch.srcInRange s.memSize.toNat = true →
    let c := s.mem.readBytes s.latch.srcAddr.toNat s.latch.srcLen.toNat
    parse s.format c = .ok cs → cs.find? (fun e => e.tag == s.format.tagHdr) = some e → 8 ≤ e.length →
    ∃ t : State, exec .chkHdr s = .next t ∧
      t = { s with
        phase := .idle, done := true, latch := Latch.empty, row := 0,
        width := t.width, height := t.height, chunkCount := t.chunkCount } ∧
      t.width.toNat = be32At c (e.offset + 8) ∧ t.height.toNat = be32At c (e.offset + 12) ∧
      t.chunkCount.toNat = cs.length

/-- R160, R161: CHK_IDAT stores the data of every data chunk, in encounter order, and commits DST_LEN and
CHUNK_COUNT. -/
def Obligations.ChkIdatConcatenates : Prop :=
  ∀ (s : State) (cs : List Chunk), s.regionsOk = true →
    let c := s.mem.readBytes s.latch.srcAddr.toNat s.latch.srcLen.toNat
    let dat := cs.filter (fun e => e.tag == s.format.tagDat)
    parse s.format c = .ok cs → dat ≠ [] → (dat.map (fun e => e.length)).sum ≤ s.latch.dstCap.toNat →
    ∃ t : State, exec .chkIdat s = .next t ∧
      t = { s with
        phase := .idle, done := true, latch := Latch.empty, row := 0, mem := t.mem,
        dstLen := t.dstLen, chunkCount := t.chunkCount } ∧
      t.dstLen.toNat = (dat.map (fun e => e.length)).sum ∧ t.chunkCount.toNat = cs.length ∧
      s.mem.Stores t.mem s.latch.dstAddr.toNat (dat.flatMap (fun e => (c.drop (e.offset + 8)).take e.length)) ∧
      (dat.flatMap (fun e => (c.drop (e.offset + 8)).take e.length)).length = t.dstLen.toNat

/-- R162, R163: CHK_PLEN commits the pad length of the first pad chunk, or 0 without one, and CHUNK_COUNT; no buffer byte
changes, and DST_ADDR and DST_CAP are not looked at. -/
def Obligations.ChkPlenReads : Prop :=
  ∀ (s : State) (cs : List Chunk), s.latch.srcInRange s.memSize.toNat = true →
    let c := s.mem.readBytes s.latch.srcAddr.toNat s.latch.srcLen.toNat
    parse s.format c = .ok cs →
    (cs.find? (fun e => e.tag == s.format.tagPad) = none →
      ∃ t : State, exec .chkPlen s = .next t ∧
        t = { s with
          phase := .idle, done := true, latch := Latch.empty, row := 0, padLen := 0, chunkCount := t.chunkCount } ∧
        t.chunkCount.toNat = cs.length) ∧
    (∀ e, cs.find? (fun e => e.tag == s.format.tagPad) = some e → 4 ≤ e.length →
      ∃ t : State, exec .chkPlen s = .next t ∧
        t = { s with
          phase := .idle, done := true, latch := Latch.empty, row := 0,
          padLen := t.padLen, chunkCount := t.chunkCount } ∧
        t.padLen.toNat = be32At c (e.offset + 8) ∧ t.chunkCount.toNat = cs.length)

/-- R164 to R168: CHK_INSPAD stores the source with the 16-byte pad chunk before the first end marker and commits DST_LEN
and CHUNK_COUNT. TAG_PAD is `70 6C 45 4E` from reset on. -/
def Obligations.ChkInspadInserts : Prop :=
  State.reset.format.tagPad = [0x70, 0x6C, 0x45, 0x4E] ∧
  ∀ (s : State) (cs : List Chunk) (e : Chunk), s.regionsOk = true →
    let c := s.mem.readBytes s.latch.srcAddr.toNat s.latch.srcLen.toNat
    parse s.format c = .ok cs → cs.find? (fun e => e.tag == s.format.tagEnd) = some e →
    s.latch.srcLen.toNat + 16 ≤ s.latch.dstCap.toNat →
    ∃ t : State, exec .chkInspad s = .next t ∧
      t = { s with
        phase := .idle, done := true, latch := Latch.empty, row := 0, mem := t.mem,
        dstLen := t.dstLen, chunkCount := t.chunkCount } ∧
      t.dstLen.toNat = s.latch.srcLen.toNat + 16 ∧ t.chunkCount.toNat = cs.length ∧
      s.mem.Stores t.mem s.latch.dstAddr.toNat
        (c.take e.offset ++
          ([0x00, 0x00, 0x00, 0x04] ++ s.format.tagPad ++ bytesBe32 s.latch.padLen ++ [0x00, 0x00, 0x00, 0x00]) ++
          c.drop e.offset) ∧
      e.offset ≤ c.length

/-- R158, R160, R163, R164, R195: the selection errors of the chunk commands, and DST_OVERFLOW after them. -/
def Obligations.ChunkSelectionErrors : Prop :=
  ∀ (s : State) (cs : List Chunk),
    let c := s.mem.readBytes s.latch.srcAddr.toNat s.latch.srcLen.toNat
    let dat := cs.filter (fun e => e.tag == s.format.tagDat)
    parse s.format c = .ok cs →
    (s.latch.srcInRange s.memSize.toNat = true →
      (cs.find? (fun e => e.tag == s.format.tagHdr) = none →
        exec .chkHdr s = .next (s.fail ⟨.missingHeader, s.latch.srcLen⟩)) ∧
      (∀ e, cs.find? (fun e => e.tag == s.format.tagHdr) = some e → e.length < 8 →
        exec .chkHdr s = .next (s.fail ⟨.shortField, BitVec.ofNat 32 e.offset⟩)) ∧
      (∀ e, cs.find? (fun e => e.tag == s.format.tagPad) = some e → e.length < 4 →
        exec .chkPlen s = .next (s.fail ⟨.shortField, BitVec.ofNat 32 e.offset⟩))) ∧
    (s.regionsOk = true →
      (dat = [] → exec .chkIdat s = .next (s.fail ⟨.missingPayload, s.latch.srcLen⟩)) ∧
      (dat ≠ [] → s.latch.dstCap.toNat < (dat.map (fun e => e.length)).sum →
        exec .chkIdat s =
          .next (s.fail ⟨.dstOverflow, BitVec.ofNat 32 (min (dat.map (fun e => e.length)).sum 0xFFFFFFFF)⟩)) ∧
      (cs.find? (fun e => e.tag == s.format.tagEnd) = none →
        exec .chkInspad s = .next (s.fail ⟨.missingEndMarker, s.latch.srcLen⟩)) ∧
      (∀ e, cs.find? (fun e => e.tag == s.format.tagEnd) = some e →
        s.latch.dstCap.toNat < s.latch.srcLen.toNat + 16 →
        exec .chkInspad s =
          .next (s.fail ⟨.dstOverflow, BitVec.ofNat 32 (min (s.latch.srcLen.toNat + 16) 0xFFFFFFFF)⟩)))

/-- R165, R166, R167, R169: a container with a pad chunk inserted parses again: the chunks before the end marker stay, then
the pad chunk with its value, then the end marker and all after it, 16 bytes further on. -/
def Obligations.InsertedContainerParses : Prop :=
  ∀ (fmt : ContainerFormat) (c : List Byte) (before after : List Chunk) (e : Chunk) (v : Word),
    fmt.wellFormed = true → parse fmt c = .ok (before ++ e :: after) → (∀ b ∈ before, b.tag ≠ fmt.tagEnd) → e.tag = fmt.tagEnd →
    parse fmt (insertAt fmt c e.offset v) =
      .ok (before ++ ⟨e.offset, 4, fmt.tagPad⟩ ::
        (e :: after).map (fun x => { x with offset := x.offset + 16 })) ∧
    be32At (insertAt fmt c e.offset v) (e.offset + 8) = v.toNat ∧
    (∀ b ∈ before, chunkData (insertAt fmt c e.offset v) b = chunkData c b) ∧
    ∀ a ∈ e :: after,
      chunkData (insertAt fmt c e.offset v) { a with offset := a.offset + 16 } = chunkData c a

/-- R185, R186: the end-to-end contract, stated of the commands' functions (the parse, the insertion, the reconstruction and
the mapper), of no command, step, region or capacity. With an encoder that does its duty (R183) on the grid of any payload,
and a decompressor that undoes the compressor, those functions, in the order of the unpack sequence, give the payload back
from the container into which the pad chunk has been inserted. -/
def Obligations.UnpackInvertsPack : Prop :=
  ∀ (fmt : ContainerFormat) (maxDim : Nat) (payload scanlines container : List Byte) (compress decompress : List Byte → List Byte)
    (cs : List Chunk) (e : Chunk), fmt.wellFormed = true → 0 < maxDim →
    filterDuty scanlines (gridOf maxDim payload) (gridWidth maxDim payload.length)
      (gridHeight maxDim payload.length) →
    encoderDuty fmt container (compress scanlines) (gridWidth maxDim payload.length) (gridHeight maxDim payload.length) →
    decompress (compress scanlines) = scanlines →
    parse fmt container = .ok cs → firstChunk cs fmt.tagEnd = some e →
    gridPad maxDim payload.length < 2 ^ 32 →
    Unpacks fmt decompress
      (insertAt fmt container e.offset (BitVec.ofNat 32 (gridPad maxDim payload.length))) payload

/-! ### The whole machine -/

/-- The invariant holds after power-on reset (R220, R221). What the model's own fields hold there is its choice (logs 6, 8
and 10). -/
def Obligations.InvariantAtReset : Prop :=
  State.reset.inv = true

/-- Every step of the machine, of the host or of the sequencer, keeps the invariant: the memory's canonical form, the
constants, the STATUS rules of R27, the latch of R42 and R44, the row walk's checked regions (R51, R57), and while BUSY = 1
the result registers and the destination region as the host sees them (R60, R61), and that no read is the first access after
a command that has completed (R42). -/
def Obligations.InvariantKept : Prop :=
  ∀ s t : State, s.inv = true → step s = .next t → t.inv = true

/-- R51, R234: from every state of the invariant the machine makes a step: no command forms an address outside its
regions, and nothing is refused. -/
def Obligations.MachineNeverStops : Prop :=
  ∀ s : State, s.inv = true → ∃ t : State, step s = .next t

/-- R42, R234: from every state of the invariant with no host transaction to come, whatever command is in flight, illegal
ones included, HEIGHT + 2 steps end in the idle state, and the command in flight has been completed. The number of
steps is the model's choice (log 7). -/
def Obligations.CommandsComplete : Prop :=
  ∀ s : State, s.inv = true → s.host = [] →
    ∃ t : State, Host.Core.run Sys2Proof.core (s.latch.height.toNat + 2) s = .next t ∧
      t.phase = .idle ∧ (s.phase ≠ .idle → t.done = true)

/-- R21, R6: no step changes ID, MEM_SIZE or MAXDIM, nor SIG or a tag. -/
def Obligations.ConstantRegistersKept : Prop :=
  ∀ s t : State, step s = .next t →
    t.id = s.id ∧ t.memSize = s.memSize ∧ t.maxDim = s.maxDim ∧ t.format = s.format

/-- R57: a sequencer step stores only inside the destination region latched at acceptance, and for CHK_HDR and CHK_PLEN
nowhere. -/
def Obligations.CommandsWriteOnlyDestination : Prop :=
  ∀ s t : State, s.inv = true → s.turn = .sequencer → step s = .next t →
    (∀ a, a < s.latch.dstAddr.toNat ∨ s.latch.dstAddr.toNat + s.latch.dstCap.toNat ≤ a →
      t.mem.read a = s.mem.read a) ∧
    (decodeCommand s.latch.word = .ok .chkHdr ∨ decodeCommand s.latch.word = .ok .chkPlen → t.mem = s.mem)

/-- R197: after a sequencer step that fails the command, the memory is as before, but for INVALID_FILTER, after which the
bytes outside `[DST_ADDR, DST_ADDR + 4*WIDTH*HEIGHT)` are. -/
def Obligations.MemoryAfterFailure : Prop :=
  ∀ s t : State, s.inv = true → s.turn = .sequencer → step s = .next t → t.err = true →
    (t.errCode ≠ .invalidFilter → t.mem = s.mem) ∧
    (t.errCode = .invalidFilter →
      ∀ a, a < s.latch.dstAddr.toNat ∨
          s.latch.dstAddr.toNat + 4 * s.latch.width.toNat * s.latch.height.toNat ≤ a →
        t.mem.read a = s.mem.read a)

/-- R41: a sequencer step that does not complete its command, or that fails it, changes no result register; every
completion sets DONE and clears BUSY in that one step. R60, R225: through every sequencer step, the completion included, a host
read of a result register returns what it returned before, and the bytes of the destination region stay unobserved. The
fields that say so are the model's (log 23). -/
def Obligations.ResultsCommitAtCompletion : Prop :=
  ∀ s t : State, s.inv = true → s.turn = .sequencer → step s = .next t →
    ((t.phase ≠ .idle ∨ t.err = true) →
      t.dstLen = s.dstLen ∧ t.width = s.width ∧ t.height = s.height ∧ t.padLen = s.padLen ∧
        t.chunkCount = s.chunkCount) ∧
    (t.phase = .idle ↔ t.done = true) ∧
    (∀ r ∈ [Reg.dstLen, .width, .height, .padLen, .chunkCount], t.readReg (some r) = s.readReg (some r)) ∧
    t.unseen = s.unseen ∧
    ((∃ i ∈ [Instr.mapB2g, .mapG2b, .fltRecon, .chkScan, .chkIdat, .chkInspad], decodeCommand s.latch.word = .ok i) →
      ⟨s.latch.dstAddr.toNat, s.latch.dstCap.toNat⟩ ∈ t.unseen)

/-- R204: no step ever records error code 7. -/
def Obligations.DecompressionFailureNeverRaised : Prop :=
  ∀ s t : State, s.errCode ≠ .decompressionFailure → step s = .next t → t.errCode ≠ .decompressionFailure
end

