-- ==== Sys2Proof/Laws/State.lean ====
section
/-! SUPPORT. What each field of the state is after each update, one lemma a field, true by unfolding the update. -/

namespace Sys2Proof.Machine

variable (s : State)

/-! ### retire -/

@[simp] theorem State.retire_id : s.retire.id = s.id := rfl
@[simp] theorem State.retire_memSize : s.retire.memSize = s.memSize := rfl
@[simp] theorem State.retire_maxDim : s.retire.maxDim = s.maxDim := rfl
@[simp] theorem State.retire_irqEn : s.retire.irqEn = s.irqEn := rfl
@[simp] theorem State.retire_cmd : s.retire.cmd = s.cmd := rfl
@[simp] theorem State.retire_done : s.retire.done = true := rfl
@[simp] theorem State.retire_err : s.retire.err = s.err := rfl
@[simp] theorem State.retire_ovr : s.retire.ovr = s.ovr := rfl
@[simp] theorem State.retire_errCode : s.retire.errCode = s.errCode := rfl
@[simp] theorem State.retire_errInfo : s.retire.errInfo = s.errInfo := rfl
@[simp] theorem State.retire_srcAddr : s.retire.srcAddr = s.srcAddr := rfl
@[simp] theorem State.retire_srcLen : s.retire.srcLen = s.srcLen := rfl
@[simp] theorem State.retire_dstAddr : s.retire.dstAddr = s.dstAddr := rfl
@[simp] theorem State.retire_dstCap : s.retire.dstCap = s.dstCap := rfl
@[simp] theorem State.retire_dstLen : s.retire.dstLen = s.dstLen := rfl
@[simp] theorem State.retire_width : s.retire.width = s.width := rfl
@[simp] theorem State.retire_height : s.retire.height = s.height := rfl
@[simp] theorem State.retire_padLen : s.retire.padLen = s.padLen := rfl
@[simp] theorem State.retire_chunkCount : s.retire.chunkCount = s.chunkCount := rfl
@[simp] theorem State.retire_phase : s.retire.phase = .idle := rfl
@[simp] theorem State.retire_latch : s.retire.latch = Latch.empty := rfl
@[simp] theorem State.retire_row : s.retire.row = 0 := rfl
@[simp] theorem State.retire_mem : s.retire.mem = s.mem := rfl
@[simp] theorem State.retire_format : s.retire.format = s.format := rfl
@[simp] theorem State.retire_old : s.retire.old = s.old := rfl
@[simp] theorem State.retire_unseen : s.retire.unseen = s.unseen := rfl
@[simp] theorem State.retire_justAccepted : s.retire.justAccepted = s.justAccepted := rfl
@[simp] theorem State.retire_host : s.retire.host = s.host := rfl
@[simp] theorem State.retire_responses : s.retire.responses = s.responses := rfl
@[simp] theorem State.retire_draws : s.retire.draws = s.draws := rfl

/-! ### fail -/

@[simp] theorem State.fail_id (f : Failure) : (s.fail f).id = s.id := rfl
@[simp] theorem State.fail_memSize (f : Failure) : (s.fail f).memSize = s.memSize := rfl
@[simp] theorem State.fail_maxDim (f : Failure) : (s.fail f).maxDim = s.maxDim := rfl
@[simp] theorem State.fail_irqEn (f : Failure) : (s.fail f).irqEn = s.irqEn := rfl
@[simp] theorem State.fail_cmd (f : Failure) : (s.fail f).cmd = s.cmd := rfl
@[simp] theorem State.fail_done (f : Failure) : (s.fail f).done = true := rfl
@[simp] theorem State.fail_err (f : Failure) : (s.fail f).err = true := rfl
@[simp] theorem State.fail_ovr (f : Failure) : (s.fail f).ovr = s.ovr := rfl
@[simp] theorem State.fail_errCode (f : Failure) : (s.fail f).errCode = f.code := rfl
@[simp] theorem State.fail_errInfo (f : Failure) : (s.fail f).errInfo = f.info := rfl
@[simp] theorem State.fail_srcAddr (f : Failure) : (s.fail f).srcAddr = s.srcAddr := rfl
@[simp] theorem State.fail_srcLen (f : Failure) : (s.fail f).srcLen = s.srcLen := rfl
@[simp] theorem State.fail_dstAddr (f : Failure) : (s.fail f).dstAddr = s.dstAddr := rfl
@[simp] theorem State.fail_dstCap (f : Failure) : (s.fail f).dstCap = s.dstCap := rfl
@[simp] theorem State.fail_dstLen (f : Failure) : (s.fail f).dstLen = s.dstLen := rfl
@[simp] theorem State.fail_width (f : Failure) : (s.fail f).width = s.width := rfl
@[simp] theorem State.fail_height (f : Failure) : (s.fail f).height = s.height := rfl
@[simp] theorem State.fail_padLen (f : Failure) : (s.fail f).padLen = s.padLen := rfl
@[simp] theorem State.fail_chunkCount (f : Failure) : (s.fail f).chunkCount = s.chunkCount := rfl
@[simp] theorem State.fail_phase (f : Failure) : (s.fail f).phase = .idle := rfl
@[simp] theorem State.fail_latch (f : Failure) : (s.fail f).latch = Latch.empty := rfl
@[simp] theorem State.fail_row (f : Failure) : (s.fail f).row = 0 := rfl
@[simp] theorem State.fail_mem (f : Failure) : (s.fail f).mem = s.mem := rfl
@[simp] theorem State.fail_format (f : Failure) : (s.fail f).format = s.format := rfl
@[simp] theorem State.fail_old (f : Failure) : (s.fail f).old = s.old := rfl
@[simp] theorem State.fail_unseen (f : Failure) : (s.fail f).unseen = s.unseen := rfl
@[simp] theorem State.fail_justAccepted (f : Failure) : (s.fail f).justAccepted = s.justAccepted := rfl
@[simp] theorem State.fail_host (f : Failure) : (s.fail f).host = s.host := rfl
@[simp] theorem State.fail_responses (f : Failure) : (s.fail f).responses = s.responses := rfl
@[simp] theorem State.fail_draws (f : Failure) : (s.fail f).draws = s.draws := rfl

/-! ### commit -/

@[simp] theorem State.commit_id (c : Commit) : (s.commit c).id = s.id := rfl
@[simp] theorem State.commit_memSize (c : Commit) : (s.commit c).memSize = s.memSize := rfl
@[simp] theorem State.commit_maxDim (c : Commit) : (s.commit c).maxDim = s.maxDim := rfl
@[simp] theorem State.commit_irqEn (c : Commit) : (s.commit c).irqEn = s.irqEn := rfl
@[simp] theorem State.commit_cmd (c : Commit) : (s.commit c).cmd = s.cmd := rfl
@[simp] theorem State.commit_done (c : Commit) : (s.commit c).done = true := rfl
@[simp] theorem State.commit_err (c : Commit) : (s.commit c).err = s.err := rfl
@[simp] theorem State.commit_ovr (c : Commit) : (s.commit c).ovr = s.ovr := rfl
@[simp] theorem State.commit_errCode (c : Commit) : (s.commit c).errCode = s.errCode := rfl
@[simp] theorem State.commit_errInfo (c : Commit) : (s.commit c).errInfo = s.errInfo := rfl
@[simp] theorem State.commit_srcAddr (c : Commit) : (s.commit c).srcAddr = s.srcAddr := rfl
@[simp] theorem State.commit_srcLen (c : Commit) : (s.commit c).srcLen = s.srcLen := rfl
@[simp] theorem State.commit_dstAddr (c : Commit) : (s.commit c).dstAddr = s.dstAddr := rfl
@[simp] theorem State.commit_dstCap (c : Commit) : (s.commit c).dstCap = s.dstCap := rfl
@[simp] theorem State.commit_dstLen (c : Commit) : (s.commit c).dstLen = c.dstLen.getD s.dstLen := rfl
@[simp] theorem State.commit_width (c : Commit) : (s.commit c).width = c.width.getD s.width := rfl
@[simp] theorem State.commit_height (c : Commit) : (s.commit c).height = c.height.getD s.height := rfl
@[simp] theorem State.commit_padLen (c : Commit) : (s.commit c).padLen = c.padLen.getD s.padLen := rfl
@[simp] theorem State.commit_chunkCount (c : Commit) : (s.commit c).chunkCount = c.chunkCount.getD s.chunkCount := rfl
@[simp] theorem State.commit_phase (c : Commit) : (s.commit c).phase = .idle := rfl
@[simp] theorem State.commit_latch (c : Commit) : (s.commit c).latch = Latch.empty := rfl
@[simp] theorem State.commit_row (c : Commit) : (s.commit c).row = 0 := rfl
@[simp] theorem State.commit_mem (c : Commit) : (s.commit c).mem = s.mem.writeBytes s.latch.dstAddr.toNat c.out := rfl
@[simp] theorem State.commit_format (c : Commit) : (s.commit c).format = s.format := rfl
@[simp] theorem State.commit_old (c : Commit) : (s.commit c).old = s.old := rfl
@[simp] theorem State.commit_unseen (c : Commit) : (s.commit c).unseen = s.unseen := rfl
@[simp] theorem State.commit_justAccepted (c : Commit) : (s.commit c).justAccepted = s.justAccepted := rfl
@[simp] theorem State.commit_host (c : Commit) : (s.commit c).host = s.host := rfl
@[simp] theorem State.commit_responses (c : Commit) : (s.commit c).responses = s.responses := rfl
@[simp] theorem State.commit_draws (c : Commit) : (s.commit c).draws = s.draws := rfl

/-! ### accept -/

@[simp] theorem State.accept_id (w : Word) : (s.accept w).id = s.id := rfl
@[simp] theorem State.accept_memSize (w : Word) : (s.accept w).memSize = s.memSize := rfl
@[simp] theorem State.accept_maxDim (w : Word) : (s.accept w).maxDim = s.maxDim := rfl
@[simp] theorem State.accept_irqEn (w : Word) : (s.accept w).irqEn = s.irqEn := rfl
@[simp] theorem State.accept_cmd (w : Word) : (s.accept w).cmd = w := rfl
@[simp] theorem State.accept_done (w : Word) : (s.accept w).done = false := rfl
@[simp] theorem State.accept_err (w : Word) : (s.accept w).err = false := rfl
@[simp] theorem State.accept_ovr (w : Word) : (s.accept w).ovr = s.ovr := rfl
@[simp] theorem State.accept_errCode (w : Word) : (s.accept w).errCode = .none := rfl
@[simp] theorem State.accept_errInfo (w : Word) : (s.accept w).errInfo = 0 := rfl
@[simp] theorem State.accept_srcAddr (w : Word) : (s.accept w).srcAddr = s.srcAddr := rfl
@[simp] theorem State.accept_srcLen (w : Word) : (s.accept w).srcLen = s.srcLen := rfl
@[simp] theorem State.accept_dstAddr (w : Word) : (s.accept w).dstAddr = s.dstAddr := rfl
@[simp] theorem State.accept_dstCap (w : Word) : (s.accept w).dstCap = s.dstCap := rfl
@[simp] theorem State.accept_dstLen (w : Word) : (s.accept w).dstLen = s.dstLen := rfl
@[simp] theorem State.accept_width (w : Word) : (s.accept w).width = s.width := rfl
@[simp] theorem State.accept_height (w : Word) : (s.accept w).height = s.height := rfl
@[simp] theorem State.accept_padLen (w : Word) : (s.accept w).padLen = s.padLen := rfl
@[simp] theorem State.accept_chunkCount (w : Word) : (s.accept w).chunkCount = s.chunkCount := rfl
@[simp] theorem State.accept_phase (w : Word) : (s.accept w).phase = .command := rfl
@[simp] theorem State.accept_latch (w : Word) : (s.accept w).latch = s.snapshot w := rfl
@[simp] theorem State.accept_row (w : Word) : (s.accept w).row = 0 := rfl
@[simp] theorem State.accept_mem (w : Word) : (s.accept w).mem = s.mem := rfl
@[simp] theorem State.accept_format (w : Word) : (s.accept w).format = s.format := rfl
@[simp] theorem State.accept_old (w : Word) : (s.accept w).old = s.results := rfl
@[simp] theorem State.accept_unseen (w : Word) : (s.accept w).unseen =
    if hasDestination w then (s.snapshot w).dstRegion :: s.unseen else s.unseen := rfl
@[simp] theorem State.accept_justAccepted (w : Word) : (s.accept w).justAccepted = true := rfl
@[simp] theorem State.accept_host (w : Word) : (s.accept w).host = s.host := rfl
@[simp] theorem State.accept_responses (w : Word) : (s.accept w).responses = s.responses := rfl
@[simp] theorem State.accept_draws (w : Word) : (s.accept w).draws = s.draws := rfl

/-! ### scramble -/

@[simp] theorem State.scramble_id (a n : Nat) : (s.scramble a n).id = s.id := rfl
@[simp] theorem State.scramble_memSize (a n : Nat) : (s.scramble a n).memSize = s.memSize := rfl
@[simp] theorem State.scramble_maxDim (a n : Nat) : (s.scramble a n).maxDim = s.maxDim := rfl
@[simp] theorem State.scramble_irqEn (a n : Nat) : (s.scramble a n).irqEn = s.irqEn := rfl
@[simp] theorem State.scramble_cmd (a n : Nat) : (s.scramble a n).cmd = s.cmd := rfl
@[simp] theorem State.scramble_done (a n : Nat) : (s.scramble a n).done = s.done := rfl
@[simp] theorem State.scramble_err (a n : Nat) : (s.scramble a n).err = s.err := rfl
@[simp] theorem State.scramble_ovr (a n : Nat) : (s.scramble a n).ovr = s.ovr := rfl
@[simp] theorem State.scramble_errCode (a n : Nat) : (s.scramble a n).errCode = s.errCode := rfl
@[simp] theorem State.scramble_errInfo (a n : Nat) : (s.scramble a n).errInfo = s.errInfo := rfl
@[simp] theorem State.scramble_srcAddr (a n : Nat) : (s.scramble a n).srcAddr = s.srcAddr := rfl
@[simp] theorem State.scramble_srcLen (a n : Nat) : (s.scramble a n).srcLen = s.srcLen := rfl
@[simp] theorem State.scramble_dstAddr (a n : Nat) : (s.scramble a n).dstAddr = s.dstAddr := rfl
@[simp] theorem State.scramble_dstCap (a n : Nat) : (s.scramble a n).dstCap = s.dstCap := rfl
@[simp] theorem State.scramble_dstLen (a n : Nat) : (s.scramble a n).dstLen = s.dstLen := rfl
@[simp] theorem State.scramble_width (a n : Nat) : (s.scramble a n).width = s.width := rfl
@[simp] theorem State.scramble_height (a n : Nat) : (s.scramble a n).height = s.height := rfl
@[simp] theorem State.scramble_padLen (a n : Nat) : (s.scramble a n).padLen = s.padLen := rfl
@[simp] theorem State.scramble_chunkCount (a n : Nat) : (s.scramble a n).chunkCount = s.chunkCount := rfl
@[simp] theorem State.scramble_phase (a n : Nat) : (s.scramble a n).phase = s.phase := rfl
@[simp] theorem State.scramble_latch (a n : Nat) : (s.scramble a n).latch = s.latch := rfl
@[simp] theorem State.scramble_row (a n : Nat) : (s.scramble a n).row = s.row := rfl
@[simp] theorem State.scramble_mem (a n : Nat) : (s.scramble a n).mem = s.mem.writeBytes a (s.drawn (min n (s.memSize.toNat - a))) := rfl
@[simp] theorem State.scramble_format (a n : Nat) : (s.scramble a n).format = s.format := rfl
@[simp] theorem State.scramble_old (a n : Nat) : (s.scramble a n).old = s.old := rfl
@[simp] theorem State.scramble_unseen (a n : Nat) : (s.scramble a n).unseen = s.unseen := rfl
@[simp] theorem State.scramble_justAccepted (a n : Nat) : (s.scramble a n).justAccepted = s.justAccepted := rfl
@[simp] theorem State.scramble_host (a n : Nat) : (s.scramble a n).host = s.host := rfl
@[simp] theorem State.scramble_responses (a n : Nat) : (s.scramble a n).responses = s.responses := rfl
@[simp] theorem State.scramble_draws (a n : Nat) : (s.scramble a n).draws = s.draws + min n (s.memSize.toNat - a) := rfl

/-! ### clearStatus -/

@[simp] theorem State.clearStatus_id (v : Word) : (s.clearStatus v).id = s.id := rfl
@[simp] theorem State.clearStatus_memSize (v : Word) : (s.clearStatus v).memSize = s.memSize := rfl
@[simp] theorem State.clearStatus_maxDim (v : Word) : (s.clearStatus v).maxDim = s.maxDim := rfl
@[simp] theorem State.clearStatus_irqEn (v : Word) : (s.clearStatus v).irqEn = s.irqEn := rfl
@[simp] theorem State.clearStatus_cmd (v : Word) : (s.clearStatus v).cmd = s.cmd := rfl
@[simp] theorem State.clearStatus_done (v : Word) : (s.clearStatus v).done = (s.done && !v.getLsbD 1) := rfl
@[simp] theorem State.clearStatus_err (v : Word) : (s.clearStatus v).err = (s.err && !v.getLsbD 2) := rfl
@[simp] theorem State.clearStatus_ovr (v : Word) : (s.clearStatus v).ovr = (s.ovr && !v.getLsbD 3) := rfl
@[simp] theorem State.clearStatus_errCode (v : Word) : (s.clearStatus v).errCode = s.errCode := rfl
@[simp] theorem State.clearStatus_errInfo (v : Word) : (s.clearStatus v).errInfo = s.errInfo := rfl
@[simp] theorem State.clearStatus_srcAddr (v : Word) : (s.clearStatus v).srcAddr = s.srcAddr := rfl
@[simp] theorem State.clearStatus_srcLen (v : Word) : (s.clearStatus v).srcLen = s.srcLen := rfl
@[simp] theorem State.clearStatus_dstAddr (v : Word) : (s.clearStatus v).dstAddr = s.dstAddr := rfl
@[simp] theorem State.clearStatus_dstCap (v : Word) : (s.clearStatus v).dstCap = s.dstCap := rfl
@[simp] theorem State.clearStatus_dstLen (v : Word) : (s.clearStatus v).dstLen = s.dstLen := rfl
@[simp] theorem State.clearStatus_width (v : Word) : (s.clearStatus v).width = s.width := rfl
@[simp] theorem State.clearStatus_height (v : Word) : (s.clearStatus v).height = s.height := rfl
@[simp] theorem State.clearStatus_padLen (v : Word) : (s.clearStatus v).padLen = s.padLen := rfl
@[simp] theorem State.clearStatus_chunkCount (v : Word) : (s.clearStatus v).chunkCount = s.chunkCount := rfl
@[simp] theorem State.clearStatus_phase (v : Word) : (s.clearStatus v).phase = s.phase := rfl
@[simp] theorem State.clearStatus_latch (v : Word) : (s.clearStatus v).latch = s.latch := rfl
@[simp] theorem State.clearStatus_row (v : Word) : (s.clearStatus v).row = s.row := rfl
@[simp] theorem State.clearStatus_mem (v : Word) : (s.clearStatus v).mem = s.mem := rfl
@[simp] theorem State.clearStatus_format (v : Word) : (s.clearStatus v).format = s.format := rfl
@[simp] theorem State.clearStatus_old (v : Word) : (s.clearStatus v).old = s.old := rfl
@[simp] theorem State.clearStatus_unseen (v : Word) : (s.clearStatus v).unseen = s.unseen := rfl
@[simp] theorem State.clearStatus_justAccepted (v : Word) : (s.clearStatus v).justAccepted = s.justAccepted := rfl
@[simp] theorem State.clearStatus_host (v : Word) : (s.clearStatus v).host = s.host := rfl
@[simp] theorem State.clearStatus_responses (v : Word) : (s.clearStatus v).responses = s.responses := rfl
@[simp] theorem State.clearStatus_draws (v : Word) : (s.clearStatus v).draws = s.draws := rfl

/-! ### observe -/

@[simp] theorem State.observe_id : s.observe.id = s.id := rfl
@[simp] theorem State.observe_memSize : s.observe.memSize = s.memSize := rfl
@[simp] theorem State.observe_maxDim : s.observe.maxDim = s.maxDim := rfl
@[simp] theorem State.observe_irqEn : s.observe.irqEn = s.irqEn := rfl
@[simp] theorem State.observe_cmd : s.observe.cmd = s.cmd := rfl
@[simp] theorem State.observe_done : s.observe.done = s.done := rfl
@[simp] theorem State.observe_err : s.observe.err = s.err := rfl
@[simp] theorem State.observe_ovr : s.observe.ovr = s.ovr := rfl
@[simp] theorem State.observe_errCode : s.observe.errCode = s.errCode := rfl
@[simp] theorem State.observe_errInfo : s.observe.errInfo = s.errInfo := rfl
@[simp] theorem State.observe_srcAddr : s.observe.srcAddr = s.srcAddr := rfl
@[simp] theorem State.observe_srcLen : s.observe.srcLen = s.srcLen := rfl
@[simp] theorem State.observe_dstAddr : s.observe.dstAddr = s.dstAddr := rfl
@[simp] theorem State.observe_dstCap : s.observe.dstCap = s.dstCap := rfl
@[simp] theorem State.observe_dstLen : s.observe.dstLen = s.dstLen := rfl
@[simp] theorem State.observe_width : s.observe.width = s.width := rfl
@[simp] theorem State.observe_height : s.observe.height = s.height := rfl
@[simp] theorem State.observe_padLen : s.observe.padLen = s.padLen := rfl
@[simp] theorem State.observe_chunkCount : s.observe.chunkCount = s.chunkCount := rfl
@[simp] theorem State.observe_phase : s.observe.phase = s.phase := rfl
@[simp] theorem State.observe_latch : s.observe.latch = s.latch := rfl
@[simp] theorem State.observe_row : s.observe.row = s.row := rfl
@[simp] theorem State.observe_mem : s.observe.mem = s.mem := rfl
@[simp] theorem State.observe_format : s.observe.format = s.format := rfl
@[simp] theorem State.observe_old : s.observe.old = OldResults.none := rfl
@[simp] theorem State.observe_unseen : s.observe.unseen = [] := rfl
@[simp] theorem State.observe_justAccepted : s.observe.justAccepted = s.justAccepted := rfl
@[simp] theorem State.observe_host : s.observe.host = s.host := rfl
@[simp] theorem State.observe_responses : s.observe.responses = s.responses := rfl
@[simp] theorem State.observe_draws : s.observe.draws = s.draws := rfl

/-! ### respond -/

@[simp] theorem State.respond_id (r : Response) : (s.respond r).id = s.id := rfl
@[simp] theorem State.respond_memSize (r : Response) : (s.respond r).memSize = s.memSize := rfl
@[simp] theorem State.respond_maxDim (r : Response) : (s.respond r).maxDim = s.maxDim := rfl
@[simp] theorem State.respond_irqEn (r : Response) : (s.respond r).irqEn = s.irqEn := rfl
@[simp] theorem State.respond_cmd (r : Response) : (s.respond r).cmd = s.cmd := rfl
@[simp] theorem State.respond_done (r : Response) : (s.respond r).done = s.done := rfl
@[simp] theorem State.respond_err (r : Response) : (s.respond r).err = s.err := rfl
@[simp] theorem State.respond_ovr (r : Response) : (s.respond r).ovr = s.ovr := rfl
@[simp] theorem State.respond_errCode (r : Response) : (s.respond r).errCode = s.errCode := rfl
@[simp] theorem State.respond_errInfo (r : Response) : (s.respond r).errInfo = s.errInfo := rfl
@[simp] theorem State.respond_srcAddr (r : Response) : (s.respond r).srcAddr = s.srcAddr := rfl
@[simp] theorem State.respond_srcLen (r : Response) : (s.respond r).srcLen = s.srcLen := rfl
@[simp] theorem State.respond_dstAddr (r : Response) : (s.respond r).dstAddr = s.dstAddr := rfl
@[simp] theorem State.respond_dstCap (r : Response) : (s.respond r).dstCap = s.dstCap := rfl
@[simp] theorem State.respond_dstLen (r : Response) : (s.respond r).dstLen = s.dstLen := rfl
@[simp] theorem State.respond_width (r : Response) : (s.respond r).width = s.width := rfl
@[simp] theorem State.respond_height (r : Response) : (s.respond r).height = s.height := rfl
@[simp] theorem State.respond_padLen (r : Response) : (s.respond r).padLen = s.padLen := rfl
@[simp] theorem State.respond_chunkCount (r : Response) : (s.respond r).chunkCount = s.chunkCount := rfl
@[simp] theorem State.respond_phase (r : Response) : (s.respond r).phase = s.phase := rfl
@[simp] theorem State.respond_latch (r : Response) : (s.respond r).latch = s.latch := rfl
@[simp] theorem State.respond_row (r : Response) : (s.respond r).row = s.row := rfl
@[simp] theorem State.respond_mem (r : Response) : (s.respond r).mem = s.mem := rfl
@[simp] theorem State.respond_format (r : Response) : (s.respond r).format = s.format := rfl
@[simp] theorem State.respond_old (r : Response) : (s.respond r).old = s.old := rfl
@[simp] theorem State.respond_unseen (r : Response) : (s.respond r).unseen = s.unseen := rfl
@[simp] theorem State.respond_justAccepted (r : Response) : (s.respond r).justAccepted = s.justAccepted := rfl
@[simp] theorem State.respond_host (r : Response) : (s.respond r).host = s.host := rfl
@[simp] theorem State.respond_responses (r : Response) : (s.respond r).responses = r :: s.responses := rfl
@[simp] theorem State.respond_draws (r : Response) : (s.respond r).draws = s.draws := rfl

/-! ### overrun -/

@[simp] theorem State.overrun_id : s.overrun.id = s.id := rfl
@[simp] theorem State.overrun_memSize : s.overrun.memSize = s.memSize := rfl
@[simp] theorem State.overrun_maxDim : s.overrun.maxDim = s.maxDim := rfl
@[simp] theorem State.overrun_irqEn : s.overrun.irqEn = s.irqEn := rfl
@[simp] theorem State.overrun_cmd : s.overrun.cmd = s.cmd := rfl
@[simp] theorem State.overrun_done : s.overrun.done = s.done := rfl
@[simp] theorem State.overrun_err : s.overrun.err = s.err := rfl
@[simp] theorem State.overrun_ovr : s.overrun.ovr = true := rfl
@[simp] theorem State.overrun_errCode : s.overrun.errCode = s.errCode := rfl
@[simp] theorem State.overrun_errInfo : s.overrun.errInfo = s.errInfo := rfl
@[simp] theorem State.overrun_srcAddr : s.overrun.srcAddr = s.srcAddr := rfl
@[simp] theorem State.overrun_srcLen : s.overrun.srcLen = s.srcLen := rfl
@[simp] theorem State.overrun_dstAddr : s.overrun.dstAddr = s.dstAddr := rfl
@[simp] theorem State.overrun_dstCap : s.overrun.dstCap = s.dstCap := rfl
@[simp] theorem State.overrun_dstLen : s.overrun.dstLen = s.dstLen := rfl
@[simp] theorem State.overrun_width : s.overrun.width = s.width := rfl
@[simp] theorem State.overrun_height : s.overrun.height = s.height := rfl
@[simp] theorem State.overrun_padLen : s.overrun.padLen = s.padLen := rfl
@[simp] theorem State.overrun_chunkCount : s.overrun.chunkCount = s.chunkCount := rfl
@[simp] theorem State.overrun_phase : s.overrun.phase = s.phase := rfl
@[simp] theorem State.overrun_latch : s.overrun.latch = s.latch := rfl
@[simp] theorem State.overrun_row : s.overrun.row = s.row := rfl
@[simp] theorem State.overrun_mem : s.overrun.mem = s.mem := rfl
@[simp] theorem State.overrun_format : s.overrun.format = s.format := rfl
@[simp] theorem State.overrun_old : s.overrun.old = s.old := rfl
@[simp] theorem State.overrun_unseen : s.overrun.unseen = s.unseen := rfl
@[simp] theorem State.overrun_justAccepted : s.overrun.justAccepted = s.justAccepted := rfl
@[simp] theorem State.overrun_host : s.overrun.host = s.host := rfl
@[simp] theorem State.overrun_responses : s.overrun.responses = s.responses := rfl
@[simp] theorem State.overrun_draws : s.overrun.draws = s.draws := rfl

/-! ### tick -/

@[simp] theorem State.tick_id : s.tick.id = s.id := rfl
@[simp] theorem State.tick_memSize : s.tick.memSize = s.memSize := rfl
@[simp] theorem State.tick_maxDim : s.tick.maxDim = s.maxDim := rfl
@[simp] theorem State.tick_irqEn : s.tick.irqEn = s.irqEn := rfl
@[simp] theorem State.tick_cmd : s.tick.cmd = s.cmd := rfl
@[simp] theorem State.tick_done : s.tick.done = s.done := rfl
@[simp] theorem State.tick_err : s.tick.err = s.err := rfl
@[simp] theorem State.tick_ovr : s.tick.ovr = s.ovr := rfl
@[simp] theorem State.tick_errCode : s.tick.errCode = s.errCode := rfl
@[simp] theorem State.tick_errInfo : s.tick.errInfo = s.errInfo := rfl
@[simp] theorem State.tick_srcAddr : s.tick.srcAddr = s.srcAddr := rfl
@[simp] theorem State.tick_srcLen : s.tick.srcLen = s.srcLen := rfl
@[simp] theorem State.tick_dstAddr : s.tick.dstAddr = s.dstAddr := rfl
@[simp] theorem State.tick_dstCap : s.tick.dstCap = s.dstCap := rfl
@[simp] theorem State.tick_dstLen : s.tick.dstLen = s.dstLen := rfl
@[simp] theorem State.tick_width : s.tick.width = s.width := rfl
@[simp] theorem State.tick_height : s.tick.height = s.height := rfl
@[simp] theorem State.tick_padLen : s.tick.padLen = s.padLen := rfl
@[simp] theorem State.tick_chunkCount : s.tick.chunkCount = s.chunkCount := rfl
@[simp] theorem State.tick_phase : s.tick.phase = s.phase := rfl
@[simp] theorem State.tick_latch : s.tick.latch = s.latch := rfl
@[simp] theorem State.tick_row : s.tick.row = s.row := rfl
@[simp] theorem State.tick_mem : s.tick.mem = s.mem := rfl
@[simp] theorem State.tick_format : s.tick.format = s.format := rfl
@[simp] theorem State.tick_old : s.tick.old = s.old := rfl
@[simp] theorem State.tick_unseen : s.tick.unseen = s.unseen := rfl
@[simp] theorem State.tick_justAccepted : s.tick.justAccepted = s.justAccepted := rfl
@[simp] theorem State.tick_responses : s.tick.responses = s.responses := rfl
@[simp] theorem State.tick_draws : s.tick.draws = s.draws := rfl

/-! ### delayHost -/

@[simp] theorem State.delayHost_id : s.delayHost.id = s.id := rfl
@[simp] theorem State.delayHost_memSize : s.delayHost.memSize = s.memSize := rfl
@[simp] theorem State.delayHost_maxDim : s.delayHost.maxDim = s.maxDim := rfl
@[simp] theorem State.delayHost_irqEn : s.delayHost.irqEn = s.irqEn := rfl
@[simp] theorem State.delayHost_cmd : s.delayHost.cmd = s.cmd := rfl
@[simp] theorem State.delayHost_done : s.delayHost.done = s.done := rfl
@[simp] theorem State.delayHost_err : s.delayHost.err = s.err := rfl
@[simp] theorem State.delayHost_ovr : s.delayHost.ovr = s.ovr := rfl
@[simp] theorem State.delayHost_errCode : s.delayHost.errCode = s.errCode := rfl
@[simp] theorem State.delayHost_errInfo : s.delayHost.errInfo = s.errInfo := rfl
@[simp] theorem State.delayHost_srcAddr : s.delayHost.srcAddr = s.srcAddr := rfl
@[simp] theorem State.delayHost_srcLen : s.delayHost.srcLen = s.srcLen := rfl
@[simp] theorem State.delayHost_dstAddr : s.delayHost.dstAddr = s.dstAddr := rfl
@[simp] theorem State.delayHost_dstCap : s.delayHost.dstCap = s.dstCap := rfl
@[simp] theorem State.delayHost_dstLen : s.delayHost.dstLen = s.dstLen := rfl
@[simp] theorem State.delayHost_width : s.delayHost.width = s.width := rfl
@[simp] theorem State.delayHost_height : s.delayHost.height = s.height := rfl
@[simp] theorem State.delayHost_padLen : s.delayHost.padLen = s.padLen := rfl
@[simp] theorem State.delayHost_chunkCount : s.delayHost.chunkCount = s.chunkCount := rfl
@[simp] theorem State.delayHost_phase : s.delayHost.phase = s.phase := rfl
@[simp] theorem State.delayHost_latch : s.delayHost.latch = s.latch := rfl
@[simp] theorem State.delayHost_row : s.delayHost.row = s.row := rfl
@[simp] theorem State.delayHost_mem : s.delayHost.mem = s.mem := rfl
@[simp] theorem State.delayHost_format : s.delayHost.format = s.format := rfl
@[simp] theorem State.delayHost_old : s.delayHost.old = s.old := rfl
@[simp] theorem State.delayHost_unseen : s.delayHost.unseen = s.unseen := rfl
@[simp] theorem State.delayHost_justAccepted : s.delayHost.justAccepted = s.justAccepted := rfl
@[simp] theorem State.delayHost_responses : s.delayHost.responses = s.responses := rfl
@[simp] theorem State.delayHost_draws : s.delayHost.draws = s.draws := rfl

/-! ### softReset -/

@[simp] theorem State.softReset_id : s.softReset.id = s.id := rfl
@[simp] theorem State.softReset_memSize : s.softReset.memSize = s.memSize := rfl
@[simp] theorem State.softReset_maxDim : s.softReset.maxDim = s.maxDim := rfl
@[simp] theorem State.softReset_irqEn : s.softReset.irqEn = false := rfl
@[simp] theorem State.softReset_cmd : s.softReset.cmd = 0 := rfl
@[simp] theorem State.softReset_done : s.softReset.done = false := rfl
@[simp] theorem State.softReset_err : s.softReset.err = false := rfl
@[simp] theorem State.softReset_ovr : s.softReset.ovr = false := rfl
@[simp] theorem State.softReset_errCode : s.softReset.errCode = .none := rfl
@[simp] theorem State.softReset_errInfo : s.softReset.errInfo = 0 := rfl
@[simp] theorem State.softReset_srcAddr : s.softReset.srcAddr = 0 := rfl
@[simp] theorem State.softReset_srcLen : s.softReset.srcLen = 0 := rfl
@[simp] theorem State.softReset_dstAddr : s.softReset.dstAddr = 0 := rfl
@[simp] theorem State.softReset_dstCap : s.softReset.dstCap = 0 := rfl
@[simp] theorem State.softReset_dstLen : s.softReset.dstLen = 0 := rfl
@[simp] theorem State.softReset_width : s.softReset.width = 0 := rfl
@[simp] theorem State.softReset_height : s.softReset.height = 0 := rfl
@[simp] theorem State.softReset_padLen : s.softReset.padLen = 0 := rfl
@[simp] theorem State.softReset_chunkCount : s.softReset.chunkCount = 0 := rfl
@[simp] theorem State.softReset_phase : s.softReset.phase = .idle := rfl
@[simp] theorem State.softReset_latch : s.softReset.latch = Latch.empty := rfl
@[simp] theorem State.softReset_row : s.softReset.row = 0 := rfl
@[simp] theorem State.softReset_mem : s.softReset.mem = s.abort.mem := rfl
@[simp] theorem State.softReset_format : s.softReset.format = s.format := rfl
@[simp] theorem State.softReset_old : s.softReset.old = OldResults.none := rfl
@[simp] theorem State.softReset_unseen : s.softReset.unseen = s.abort.unseen := rfl
@[simp] theorem State.softReset_justAccepted : s.softReset.justAccepted = false := rfl
@[simp] theorem State.softReset_host : s.softReset.host = s.host := rfl
@[simp] theorem State.softReset_responses : s.softReset.responses = s.responses := rfl
@[simp] theorem State.softReset_draws : s.softReset.draws = s.abort.draws := rfl

/-! ### snapshot -/

@[simp] theorem State.snapshot_word (w : Word) : (s.snapshot w).word = w := rfl
@[simp] theorem State.snapshot_srcAddr (w : Word) : (s.snapshot w).srcAddr = s.srcAddr := rfl
@[simp] theorem State.snapshot_srcLen (w : Word) : (s.snapshot w).srcLen = s.srcLen := rfl
@[simp] theorem State.snapshot_dstAddr (w : Word) : (s.snapshot w).dstAddr = s.dstAddr := rfl
@[simp] theorem State.snapshot_dstCap (w : Word) : (s.snapshot w).dstCap = s.dstCap := rfl
@[simp] theorem State.snapshot_width (w : Word) : (s.snapshot w).width = s.width := rfl
@[simp] theorem State.snapshot_height (w : Word) : (s.snapshot w).height = s.height := rfl
@[simp] theorem State.snapshot_padLen (w : Word) : (s.snapshot w).padLen = s.padLen := rfl

/-! ### busy -/

theorem State.busy_eq_true_iff : s.busy = true ↔ s.phase ≠ .idle := by
  simp [State.busy]

theorem State.busy_eq_false_iff : s.busy = false ↔ s.phase = .idle := by
  simp [State.busy]

/-- A tick touches nothing but the host's waiting time. -/
theorem State.tick_eq : s.tick = { s with host := s.tick.host } := rfl

/-- Delaying the host and ticking are inverse. -/
theorem State.delayHost_tick : s.delayHost.tick = s := by
  cases s with | mk => rename_i h _ _; cases h <;> rfl

end Sys2Proof.Machine
end

