-- ==== Sys2Proof/Laws/Memory.lean ====
section
/-! SUPPORT. The buffer memory: read after write, byte strings, and the canonical form (10_state.md R45). -/

namespace Sys2Proof.Machine

theorem Memory.cell_write (m : Memory) (a x : Nat) (v : Byte) :
    (m.write a v).cell x = if x = a then some v else m.cell x := by
  induction m with
  | nil => simp [Memory.write, Memory.cell]
  | cons e rest ih =>
    obtain ⟨b, w⟩ := e
    by_cases hab : a < b
    · simp [Memory.write, Memory.cell, hab]
    · by_cases h : a = b
      · subst h
        by_cases hx : x = a <;> simp [Memory.write, Memory.cell, hx]
      · by_cases hx : x = b
        · subst hx
          simp [Memory.write, Memory.cell, hab, h, Ne.symm h]
        · simp [Memory.write, Memory.cell, hab, h, hx, ih]

/-- A read after a write: the byte written at its address, every other byte as before. -/
theorem Memory.read_write (m : Memory) (a x : Nat) (v : Byte) :
    (m.write a v).read x = if x = a then v else m.read x := by
  by_cases h : x = a <;> simp [Memory.read, Memory.cell_write, h]

@[simp] theorem Memory.read_write_same (m : Memory) (a : Nat) (v : Byte) : (m.write a v).read a = v := by
  simp [Memory.read_write]

theorem Memory.read_write_other (m : Memory) {a x : Nat} (v : Byte) (h : x ≠ a) : (m.write a v).read x = m.read x := by
  simp [Memory.read_write, h]

@[simp] theorem Memory.writeBytes_nil (m : Memory) (a : Nat) : m.writeBytes a [] = m := rfl

@[simp] theorem Memory.writeBytes_cons (m : Memory) (a : Nat) (b : Byte) (bs : List Byte) :
    m.writeBytes a (b :: bs) = (m.write a b).writeBytes (a + 1) bs := rfl

theorem Memory.writeBytes_append (m : Memory) (a : Nat) (bs cs : List Byte) :
    m.writeBytes a (bs ++ cs) = (m.writeBytes a bs).writeBytes (a + bs.length) cs := by
  induction bs generalizing m a with
  | nil => simp
  | cons b bs ih => simp [ih, Nat.add_assoc, Nat.add_comm 1]

/-- A read outside a stored byte string. -/
theorem Memory.read_writeBytes_outside (m : Memory) (a x : Nat) (bs : List Byte) (h : x < a ∨ a + bs.length ≤ x) :
    (m.writeBytes a bs).read x = m.read x := by
  induction bs generalizing m a with
  | nil => rfl
  | cons b bs ih =>
    simp only [List.length_cons] at h
    rw [Memory.writeBytes_cons, ih _ _ (by omega), Memory.read_write_other _ _ (by omega)]

/-- A read inside a stored byte string. -/
theorem Memory.read_writeBytes_inside (m : Memory) (a k : Nat) (bs : List Byte) (h : k < bs.length) :
    (m.writeBytes a bs).read (a + k) = bs.getD k 0 := by
  induction bs generalizing m a k with
  | nil => simp at h
  | cons b bs ih =>
    rw [Memory.writeBytes_cons]
    cases k with
    | zero => rw [Memory.read_writeBytes_outside _ _ _ _ (by omega)]; simp
    | succ k =>
      have := ih (m.write a b) (a + 1) k (by simpa using h)
      rw [show a + (k + 1) = a + 1 + k by omega, this]; simp

@[simp] theorem Memory.readBytes_length (m : Memory) (a n : Nat) : (m.readBytes a n).length = n := by
  simp [Memory.readBytes]

theorem Memory.readBytes_getD (m : Memory) (a n k : Nat) (h : k < n) : (m.readBytes a n).getD k 0 = m.read (a + k) := by
  simp [Memory.readBytes, h]

theorem Memory.readBytes_congr {m m' : Memory} {a n : Nat} (h : ∀ k, k < n → m.read (a + k) = m'.read (a + k)) :
    m.readBytes a n = m'.readBytes a n := by
  simp only [Memory.readBytes]
  exact List.map_congr_left (fun k hk => h k (List.mem_range.mp hk))

/-- Reading back a stored byte string. -/
theorem Memory.readBytes_writeBytes (m : Memory) (a : Nat) (bs : List Byte) :
    (m.writeBytes a bs).readBytes a bs.length = bs := by
  apply List.ext_getElem
  · simp
  · intro k h1 h2
    have := Memory.readBytes_getD (m.writeBytes a bs) a bs.length k h2
    rw [Memory.read_writeBytes_inside _ _ _ _ h2] at this
    simpa [List.getD_eq_getElem?_getD, h1, h2] using this

/-- Reading a region that a stored byte string does not touch. -/
theorem Memory.readBytes_writeBytes_disjoint (m : Memory) (a b n : Nat) (bs : List Byte)
    (h : n = 0 ∨ bs.length = 0 ∨ b + n ≤ a ∨ a + bs.length ≤ b) :
    (m.writeBytes a bs).readBytes b n = m.readBytes b n := by
  apply Memory.readBytes_congr
  intro k hk
  by_cases h0 : bs.length = 0
  · rw [List.length_eq_zero_iff.mp h0]; rfl
  · exact Memory.read_writeBytes_outside _ _ _ _ (by omega)

/-! ### The canonical form -/

theorem Memory.wfFrom_mono {size lo lo' : Nat} {m : Memory} (h : lo' ≤ lo) (hm : m.wfFrom size lo = true) :
    m.wfFrom size lo' = true := by
  cases m with
  | nil => rfl
  | cons e rest =>
    simp only [Memory.wfFrom, Bool.and_eq_true, decide_eq_true_eq] at hm ⊢
    exact ⟨⟨by omega, hm.1.2⟩, hm.2⟩

theorem Memory.wfFrom_write {size : Nat} (m : Memory) (lo a : Nat) (v : Byte) (hlo : lo ≤ a) (ha : a < size)
    (hm : m.wfFrom size lo = true) : (m.write a v).wfFrom size lo = true := by
  induction m generalizing lo with
  | nil => simp [Memory.write, Memory.wfFrom, hlo, ha]
  | cons e rest ih =>
    obtain ⟨b, w⟩ := e
    simp only [Memory.wfFrom, Bool.and_eq_true, decide_eq_true_eq] at hm
    by_cases hab : a < b
    · simp [Memory.write, Memory.wfFrom, hab, hlo, ha, hm]
    · by_cases h : a = b
      · subst h
        simp [Memory.write, Memory.wfFrom, hlo, ha, hm]
      · simp [Memory.write, Memory.wfFrom, hab, h, hm, ih (b + 1) (by omega) hm.2]

/-- A write inside the memory keeps the canonical form. -/
theorem Memory.wf_write {size : Nat} {m : Memory} (a : Nat) (v : Byte) (ha : a < size) (hm : m.wf size = true) :
    (m.write a v).wf size = true :=
  Memory.wfFrom_write m 0 a v (Nat.zero_le a) ha hm

/-- Storing a byte string inside the memory keeps the canonical form. -/
theorem Memory.wf_writeBytes {size : Nat} {m : Memory} (a : Nat) (bs : List Byte) (h : bs = [] ∨ a + bs.length ≤ size)
    (hm : m.wf size = true) : (m.writeBytes a bs).wf size = true := by
  induction bs generalizing m a with
  | nil => exact hm
  | cons b bs ih =>
    have h' : a + (bs.length + 1) ≤ size := by simpa using h
    exact ih (a + 1) (by right; omega) (Memory.wf_write a b (by omega) hm)

theorem Memory.cell_of_lt_wfFrom {size lo x : Nat} {m : Memory} (hm : m.wfFrom size lo = true) (hx : x < lo) :
    m.cell x = none := by
  induction m generalizing lo with
  | nil => rfl
  | cons e rest ih =>
    obtain ⟨b, w⟩ := e
    simp only [Memory.wfFrom, Bool.and_eq_true, decide_eq_true_eq] at hm
    rw [Memory.cell, if_neg (by omega), ih hm.2 (by omega)]

theorem Memory.eq_of_cells_from {size : Nat} (m m' : Memory) (lo : Nat) (hm : m.wfFrom size lo = true)
    (hm' : m'.wfFrom size lo = true) (h : ∀ a, m.cell a = m'.cell a) : m = m' := by
  induction m generalizing m' lo with
  | nil =>
    cases m' with
    | nil => rfl
    | cons e rest => obtain ⟨b, w⟩ := e; simpa [Memory.cell] using h b
  | cons e rest ih =>
    obtain ⟨b, w⟩ := e
    cases m' with
    | nil => simpa [Memory.cell] using h b
    | cons e' rest' =>
      obtain ⟨b', w'⟩ := e'
      simp only [Memory.wfFrom, Bool.and_eq_true, decide_eq_true_eq] at hm hm'
      have hb : b = b' := by
        rcases Nat.lt_trichotomy b b' with hlt | heq | hgt
        · have := h b
          rw [Memory.cell, if_pos rfl, Memory.cell, if_neg (by omega),
            Memory.cell_of_lt_wfFrom hm'.2 (by omega)] at this
          exact absurd this (by simp)
        · exact heq
        · have := h b'
          rw [Memory.cell, if_neg (by omega), Memory.cell_of_lt_wfFrom hm.2 (by omega), Memory.cell,
            if_pos rfl] at this
          exact absurd this (by simp)
      subst hb
      have hw : w = w' := by simpa [Memory.cell] using h b
      subst hw
      congr 1
      apply ih rest' (b + 1) hm.2 hm'.2
      intro a
      by_cases ha : a = b
      · subst ha
        rw [Memory.cell_of_lt_wfFrom hm.2 (by omega), Memory.cell_of_lt_wfFrom hm'.2 (by omega)]
      · simpa [Memory.cell, ha] using h a

/-- Equal memories are equal lists: the canonical form is unique. -/
theorem Memory.eq_of_cells {size : Nat} {m m' : Memory} (hm : m.wf size = true) (hm' : m'.wf size = true)
    (h : ∀ a, m.cell a = m'.cell a) : m = m' :=
  Memory.eq_of_cells_from m m' 0 hm hm' h

/-- The reset memory is in canonical form. -/
theorem State.reset_mem_wf (size : Nat) : State.reset.mem.wf size = true := rfl

/-! ### Free draws -/

@[simp] theorem State.drawn_length (s : State) (n : Nat) : (s.drawn n).length = n := by
  simp [State.drawn]

/-- A scramble leaves every byte outside its range as it was. -/
theorem State.scramble_read_outside (s : State) (a n x : Nat) (h : x < a ∨ a + n ≤ x) :
    (s.scramble a n).mem.read x = s.mem.read x := by
  rw [State.scramble_mem]
  apply Memory.read_writeBytes_outside
  simp only [State.drawn_length]
  omega

/-- A scramble keeps the canonical form, whatever its range. -/
theorem State.scramble_wf (s : State) (a n : Nat) (hm : s.mem.wf s.memSize.toNat = true) :
    (s.scramble a n).mem.wf s.memSize.toNat = true := by
  rw [State.scramble_mem]
  apply Memory.wf_writeBytes _ _ _ hm
  by_cases h : a ≤ s.memSize.toNat
  · right; simp only [State.drawn_length]; omega
  · left
    apply List.length_eq_zero_iff.mp
    simp only [State.drawn_length]; omega

/-- An abort keeps the canonical form. -/
theorem State.abort_wf (s : State) (hm : s.mem.wf s.memSize.toNat = true) :
    s.abort.mem.wf s.memSize.toNat = true := by
  unfold State.abort
  split
  · exact State.scramble_wf s _ _ hm
  · exact hm

/-- An abort leaves every byte outside the latched destination region as it was (70_reset_and_hazards.md R223). -/
theorem State.abort_read_outside (s : State) (x : Nat)
    (h : x < s.latch.dstAddr.toNat ∨ s.latch.dstAddr.toNat + s.latch.dstCap.toNat ≤ x) :
    s.abort.mem.read x = s.mem.read x := by
  unfold State.abort
  split
  · exact State.scramble_read_outside s _ _ x h
  · rfl

end Sys2Proof.Machine
end

