-- ==== Sys2Proof/Laws/Codec.lean ====
section
/-! SUPPORT. Byte order (00_scope.md R11, 20_memory.md R53) and the decoder's results. -/

namespace Sys2Proof.Machine

theorem be32_lt (b0 b1 b2 b3 : Byte) : be32 b0 b1 b2 b3 < 2 ^ 32 := by
  have := b0.isLt; have := b1.isLt; have := b2.isLt; have := b3.isLt
  unfold be32
  omega

theorem be32At_lt (c : List Byte) (p : Nat) : be32At c p < 2 ^ 32 := be32_lt _ _ _ _

/-- `be32` reads back what `bytes_be32` writes (R11). -/
theorem be32At_bytesBe32 (v : Word) : be32At (bytesBe32 v) 0 = v.toNat := by
  have h := v.isLt
  simp [be32At, bytesBe32, be32, BitVec.extractLsb'_toNat, Nat.shiftRight_eq_div_pow]
  omega

@[simp] theorem bytesBe32_length (v : Word) : (bytesBe32 v).length = 4 := rfl

/-- The lanes of a word put together again are the word (R53). -/
theorem busValue_laneBytes (v : Word) : busValue (laneBytes v) = v := by
  apply BitVec.eq_of_toNat_eq
  have h := v.isLt
  simp only [busValue, laneBytes, laneWord, BitVec.toNat_append, BitVec.extractLsb'_toNat, Nat.shiftRight_eq_div_pow,
    Nat.shiftLeft_eq]
  rw [← Nat.shiftLeft_eq, ← Nat.shiftLeft_eq, ← Nat.shiftLeft_eq]
  rw [← Nat.shiftLeft_add_eq_or_of_lt (by omega), ← Nat.shiftLeft_add_eq_or_of_lt (by omega),
    ← Nat.shiftLeft_add_eq_or_of_lt (by omega)]
  simp only [Nat.shiftLeft_eq]
  omega

@[simp] theorem laneBytes_length (v : Word) : (laneBytes v).length = 4 := rfl

@[simp] theorem busBytes_length (w : Width) (v : Word) : (busBytes w v).length = w.bytes := by
  cases w <;> rfl

theorem sat32_of_lt {v : Nat} (h : v < 2 ^ 32) : (sat32 v).toNat = v := by
  simp only [sat32, BitVec.toNat_ofNat]
  omega

/-- A byte decoded as a filter type is one of the five filter types. -/
theorem decodeFilter_kind {b : Byte} {i : Instr} (h : decodeFilter b = .ok i) :
    i = .ftNone ∨ i = .ftSub ∨ i = .ftUp ∨ i = .ftAverage ∨ i = .ftPaeth := by
  revert h
  unfold decodeFilter lookupCode
  cases hf : filterTable.find? (fun r => r.1 == b) with
  | none => simp
  | some r =>
    have hr := List.mem_of_find?_eq_some hf
    simp only [Option.map_some, Except.ok.injEq]
    rintro rfl
    revert hr
    simp only [filterTable, List.mem_cons, List.not_mem_nil, or_false]
    rintro (rfl | rfl | rfl | rfl | rfl) <;> simp

/-- A word decoded as a command is one of the eight commands. -/
theorem decodeCommand_kind {w : Word} {i : Instr} (h : decodeCommand w = .ok i) :
    i = .mapB2g ∨ i = .mapG2b ∨ i = .fltRecon ∨ i = .chkScan ∨ i = .chkHdr ∨ i = .chkIdat ∨ i = .chkPlen ∨
      i = .chkInspad := by
  revert h
  unfold decodeCommand lookupCode
  split
  · cases hf : commandTable.find? (fun r => r.1 == opcField w) with
    | none => simp
    | some r =>
      have hr := List.mem_of_find?_eq_some hf
      simp only [Option.map_some, Except.ok.injEq]
      rintro rfl
      revert hr
      simp only [commandTable, List.mem_cons, List.not_mem_nil, or_false]
      rintro (rfl | rfl | rfl | rfl | rfl | rfl | rfl | rfl) <;> simp
  · simp

end Sys2Proof.Machine
end

