-- ==== Sys2Proof/Laws/Results.lean ====
section
/-! SUPPORT. What each command's result can be: one inversion lemma per result function, the lengths of the outputs,
and what a completion leaves alone. -/

namespace Sys2Proof.Machine

/-! ### Region checks -/

theorem checkSource_eq_none {size : Nat} {o : Latch} : checkSource size o = none ↔ o.srcInRange size = true := by
  unfold checkSource
  split <;> simp_all

theorem checkRegions_eq_none {size : Nat} {o : Latch} :
    checkRegions size o = none ↔ o.srcInRange size = true ∧ o.dstInRange size = true ∧ o.overlap = false := by
  unfold checkRegions
  split
  · simp_all
  · split
    · simp_all
    · split <;> simp_all

theorem inRange_eq_true {size a n : Nat} : inRange size a n = true ↔ n = 0 ∨ a + n ≤ size := by
  simp [inRange]

theorem regionsOverlap_eq_false {sa sl da dl : Nat} :
    regionsOverlap sa sl da dl = false ↔ sl = 0 ∨ dl = 0 ∨ da + dl ≤ sa ∨ sa + sl ≤ da := by
  simp only [regionsOverlap, Bool.and_eq_false_iff, decide_eq_false_iff_not]
  omega

/-- A byte string that fits DST_CAP can be stored inside the memory when the destination region is in range. -/
theorem Latch.output_fits {size : Nat} {o : Latch} {out : List Byte} (hd : o.dstInRange size = true)
    (h : out.length ≤ o.dstCap.toNat) : out = [] ∨ o.dstAddr.toNat + out.length ≤ size := by
  rcases inRange_eq_true.mp hd with h0 | h1
  · left; apply List.length_eq_zero_iff.mp; omega
  · right; omega

/-! ### Output lengths -/

@[simp] theorem gridOf_length (maxDim : Nat) (src : List Byte) :
    (gridOf maxDim src).length = gridTotal maxDim src.length := by
  simp [gridOf]

@[simp] theorem payloadOf_length (grid : List Byte) (pad : Nat) :
    (payloadOf grid pad).length = payloadCount (grid.length - pad) := by
  simp [payloadOf]

@[simp] theorem reconFrom_length (pred : Nat → Nat → Nat → Nat) (up : List Byte) (x : Nat) (done cur : List Byte) :
    (reconFrom pred up x done cur).length = cur.length := by
  induction cur generalizing x done with
  | nil => rfl
  | cons b bs ih => simp [reconFrom, ih]

@[simp] theorem reconRow_length (pred : Nat → Nat → Nat → Nat) (up cur : List Byte) :
    (reconRow pred up cur).length = cur.length := reconFrom_length ..

@[simp] theorem State.reconstructed_length (s : State) (pred : Nat → Nat → Nat → Nat) :
    (s.reconstructed pred).length = rowBytes s.latch.width.toNat := by
  simp [State.reconstructed]

@[simp] theorem tagAt_length (c : List Byte) (p : Nat) : (tagAt c p).length = 4 := rfl

/-- The lengths R6 gives the signature and the tags. -/
theorem ContainerFormat.lengths {f : ContainerFormat} (h : f.wellFormed = true) :
    f.sig.length = 8 ∧ f.tagHdr.length = 4 ∧ f.tagDat.length = 4 ∧ f.tagEnd.length = 4 ∧ f.tagPad.length = 4 := by
  simp only [ContainerFormat.wellFormed, tagsWellFormed, List.all_cons, List.all_nil, Bool.and_eq_true, beq_iff_eq] at h
  tauto

/-- The four tags are pairwise distinct (R6). -/
theorem ContainerFormat.tags_distinct {f : ContainerFormat} (h : f.wellFormed = true) :
    f.tagHdr ≠ f.tagDat ∧ f.tagHdr ≠ f.tagEnd ∧ f.tagHdr ≠ f.tagPad ∧ f.tagDat ≠ f.tagEnd ∧ f.tagDat ≠ f.tagPad ∧
      f.tagEnd ≠ f.tagPad := by
  simp only [ContainerFormat.wellFormed, tagsWellFormed, Bool.and_eq_true, bne_iff_ne] at h
  tauto

theorem padChunk_length {f : ContainerFormat} (v : Word) (h : f.tagPad.length = 4) : (padChunk f v).length = 16 := by
  simp [padChunk, h]

theorem insertAt_length {f : ContainerFormat} {c : List Byte} {q : Nat} (v : Word) (hf : f.tagPad.length = 4)
    (h : q ≤ c.length) : (insertAt f c q v).length = c.length + 16 := by
  simp [insertAt, padChunk_length v hf]; omega

@[simp] theorem Latch.source_length (o : Latch) (m : Memory) : (o.source m).length = o.srcLen.toNat := by
  simp [Latch.source]

/-! ### The parse -/

/-- What the loop of the parse returns: either the list is empty at the end, or a chunk stands at `p`, complete, and the
rest is the parse after it (42_chunk.md R151). -/
theorem parseFrom_ok {c : List Byte} {fuel p : Nat} {cs : List Chunk} (h : parseFrom c (fuel + 1) p = .ok cs) :
    (cs = [] ∧ c.length ≤ p) ∨
      ∃ rest, cs = ⟨p, be32At c p, tagAt c p⟩ :: rest ∧ p + 12 + be32At c p ≤ c.length ∧
        parseFrom c fuel (p + 12 + be32At c p) = .ok rest := by
  rw [parseFrom] at h
  split at h
  · left; simp_all
  · split at h
    · simp at h
    · split at h
      · simp at h
      · right
        cases hr : parseFrom c fuel (p + 12 + be32At c p) with
        | error f => simp [hr, Except.map] at h
        | ok rest =>
          simp only [hr, Except.map, Except.ok.injEq] at h
          exact ⟨rest, h.symm, by omega, rfl⟩

/-- Every chunk the loop returns lies inside the container and has a 4-byte tag. -/
theorem parseFrom_inside {c : List Byte} {fuel p : Nat} {cs : List Chunk} (h : parseFrom c fuel p = .ok cs) :
    ∀ e ∈ cs, e.offset + 12 + e.length ≤ c.length ∧ e.tag.length = 4 := by
  induction fuel generalizing p cs with
  | zero => simp only [parseFrom, Except.ok.injEq] at h; subst h; simp
  | succ fuel ih =>
    rcases parseFrom_ok h with ⟨rfl, -⟩ | ⟨rest, rfl, hp, hr⟩
    · simp
    · intro e he
      rcases List.mem_cons.mp he with rfl | he
      · exact ⟨hp, rfl⟩
      · exact ih hr e he

theorem parse_ok {f : ContainerFormat} {c : List Byte} {cs : List Chunk} (h : parse f c = .ok cs) :
    8 ≤ c.length ∧ c.take 8 = f.sig ∧ parseFrom c c.length 8 = .ok cs := by
  unfold parse at h
  split at h
  · simp at h
  · split at h
    · simp at h
    · rename_i h1 h2
      exact ⟨by omega, by simpa using h2, h⟩

/-- Every chunk of a parsed container lies inside it. -/
theorem parse_inside {f : ContainerFormat} {c : List Byte} {cs : List Chunk} (h : parse f c = .ok cs) :
    ∀ e ∈ cs, e.offset + 12 + e.length ≤ c.length ∧ e.tag.length = 4 :=
  parseFrom_inside (parse_ok h).2.2

theorem firstChunk_mem {cs : List Chunk} {t : List Byte} {e : Chunk} (h : firstChunk cs t = some e) : e ∈ cs :=
  List.mem_of_find?_eq_some h

theorem chunkData_length {c : List Byte} {e : Chunk} (h : e.offset + 12 + e.length ≤ c.length) :
    (chunkData c e).length = e.length := by
  simp [chunkData]; omega

theorem descriptors_length {cs : List Chunk} (h : ∀ e ∈ cs, e.tag.length = 4) :
    (cs.flatMap descriptor).length = 12 * cs.length := by
  induction cs with
  | nil => rfl
  | cons e es ih =>
    have he := h e (by simp)
    have := ih (fun x hx => h x (by simp [hx]))
    simp only [List.flatMap_cons, List.length_append, this, descriptor, bytesBe32_length, he, List.length_cons]
    omega

theorem flatMap_chunkData_length {c : List Byte} {es : List Chunk} (h : ∀ e ∈ es, e.offset + 12 + e.length ≤ c.length) :
    (es.flatMap (chunkData c)).length = (es.map Chunk.length).sum := by
  induction es with
  | nil => rfl
  | cons e es ih =>
    simp only [List.flatMap_cons, List.length_append, List.map_cons, List.sum_cons,
      chunkData_length (h e (by simp)), ih (fun x hx => h x (by simp [hx]))]

/-! ### Results, inverted -/

theorem mapB2gResult_ok {size maxDim : Nat} {o : Latch} {m : Memory} {c : Commit}
    (h : mapB2gResult size maxDim o m = .ok c) :
    checkRegions size o = none ∧ gridTotal maxDim o.srcLen.toNat ≤ o.dstCap.toNat ∧
      c.out = gridOf maxDim (o.source m) := by
  unfold mapB2gResult at h
  split at h
  · simp at h
  · simp only at h
    split at h
    · simp at h
    · simp only [Except.ok.injEq] at h
      subst h
      exact ⟨by assumption, by omega, rfl⟩

theorem mapG2bResult_ok {size : Nat} {o : Latch} {m : Memory} {c : Commit} (h : mapG2bResult size o m = .ok c) :
    checkRegions size o = none ∧ o.padLen.toNat ≤ o.srcLen.toNat ∧
      payloadCount (o.srcLen.toNat - o.padLen.toNat) ≤ o.dstCap.toNat ∧
      c.out = payloadOf (o.source m) o.padLen.toNat := by
  unfold mapG2bResult at h
  split at h
  · simp at h
  · split at h
    · simp at h
    · simp only at h
      split at h
      · simp at h
      · simp only [Except.ok.injEq] at h
        subst h
        exact ⟨by assumption, by omega, by omega, rfl⟩

theorem outputOf_ok {o : Latch} {n : Nat} {out : List Byte} {c : Commit} (h : outputOf o n out = .ok c) :
    n ≤ o.dstCap.toNat ∧ c.out = out := by
  unfold outputOf at h
  split at h
  · simp at h
  · simp only [Except.ok.injEq] at h
    subst h
    exact ⟨by omega, rfl⟩

theorem chunkResult_ok {f : ContainerFormat} {check : Option Failure} {c : List Byte}
    {own : List Chunk → Except Failure Commit} {k : Commit} (h : chunkResult f check c own = .ok k) :
    check = none ∧ ∃ cs k', parse f c = .ok cs ∧ own cs = .ok k' ∧
      k = { k' with chunkCount := some (BitVec.ofNat 32 cs.length) } := by
  unfold chunkResult at h
  split at h
  · simp at h
  · split at h
    · simp at h
    · rename_i cs hcs
      cases ho : own cs with
      | error e => simp [ho, Except.map] at h
      | ok k' =>
        simp only [ho, Except.map, Except.ok.injEq] at h
        exact ⟨rfl, cs, k', hcs, ho, h.symm⟩

theorem fltCheck_eq_none {size : Nat} {o : Latch} :
    fltCheck size o = none ↔ checkRegions size o = none ∧
      scanlineNeed o.width.toNat o.height.toNat ≤ o.srcLen.toNat ∧
      reconLength o.width.toNat o.height.toNat ≤ o.dstCap.toNat := by
  unfold fltCheck
  split
  · simp_all
  · simp only
    split
    · simp_all
    · split <;> simp_all

/-- What a committed result may store: no more than DST_CAP bytes, in a destination region that is in range, or
nothing at all. -/
def Commit.Fits (size : Nat) (o : Latch) (c : Commit) : Prop :=
  c.out = [] ∨ (c.out.length ≤ o.dstCap.toNat ∧ o.dstInRange size = true)

theorem mapB2gResult_fits {size maxDim : Nat} {o : Latch} {m : Memory} {c : Commit}
    (h : mapB2gResult size maxDim o m = .ok c) : c.Fits size o := by
  obtain ⟨hr, hc, ho⟩ := mapB2gResult_ok h
  right
  rw [ho, gridOf_length, Latch.source_length]
  exact ⟨hc, (checkRegions_eq_none.mp hr).2.1⟩

theorem mapG2bResult_fits {size : Nat} {o : Latch} {m : Memory} {c : Commit} (h : mapG2bResult size o m = .ok c) :
    c.Fits size o := by
  obtain ⟨hr, -, hc, ho⟩ := mapG2bResult_ok h
  right
  rw [ho, payloadOf_length, Latch.source_length]
  exact ⟨hc, (checkRegions_eq_none.mp hr).2.1⟩

theorem chkScanResult_fits {f : ContainerFormat} {size : Nat} {o : Latch} {m : Memory} {c : Commit}
    (h : chkScanResult f size o m = .ok c) :
    c.Fits size o := by
  obtain ⟨hr, cs, k, hp, ho, rfl⟩ := chunkResult_ok h
  obtain ⟨hc, hk⟩ := outputOf_ok ho
  right
  refine ⟨?_, (checkRegions_eq_none.mp hr).2.1⟩
  show k.out.length ≤ _
  rw [hk, descriptors_length (fun e he => (parse_inside hp e he).2)]
  exact hc

theorem chkIdatResult_fits {f : ContainerFormat} {size : Nat} {o : Latch} {m : Memory} {c : Commit}
    (h : chkIdatResult f size o m = .ok c) :
    c.Fits size o := by
  obtain ⟨hr, cs, k, hp, ho, rfl⟩ := chunkResult_ok h
  unfold idatOwn at ho
  split at ho
  · simp at ho
  · rename_i e es he
    obtain ⟨hc, hk⟩ := outputOf_ok ho
    right
    refine ⟨?_, (checkRegions_eq_none.mp hr).2.1⟩
    show k.out.length ≤ _
    rw [hk, flatMap_chunkData_length]
    · exact hc
    · intro x hx
      rw [← he] at hx
      exact (parse_inside hp x (List.mem_filter.mp hx).1).1

theorem chkInspadResult_fits {f : ContainerFormat} {size : Nat} {o : Latch} {m : Memory} {c : Commit}
    (hf : f.tagPad.length = 4) (h : chkInspadResult f size o m = .ok c) : c.Fits size o := by
  obtain ⟨hr, cs, k, hp, ho, rfl⟩ := chunkResult_ok h
  unfold inspadOwn at ho
  split at ho
  · simp at ho
  · rename_i e he
    obtain ⟨hc, hk⟩ := outputOf_ok ho
    right
    refine ⟨?_, (checkRegions_eq_none.mp hr).2.1⟩
    show k.out.length ≤ _
    have := (parse_inside hp e (firstChunk_mem he)).1
    rw [hk, insertAt_length _ hf (by omega), Latch.source_length]
    exact hc

theorem chkHdrResult_out {f : ContainerFormat} {size : Nat} {o : Latch} {m : Memory} {c : Commit}
    (h : chkHdrResult f size o m = .ok c) :
    c.out = [] := by
  obtain ⟨-, cs, k, -, ho, rfl⟩ := chunkResult_ok h
  show k.out = []
  unfold hdrOwn at ho
  split at ho
  · simp at ho
  · split at ho
    · simp at ho
    · simp only [Except.ok.injEq] at ho; subst ho; rfl

theorem chkPlenResult_out {f : ContainerFormat} {size : Nat} {o : Latch} {m : Memory} {c : Commit}
    (h : chkPlenResult f size o m = .ok c) :
    c.out = [] := by
  obtain ⟨-, cs, k, -, ho, rfl⟩ := chunkResult_ok h
  show k.out = []
  unfold plenOwn at ho
  split at ho
  · simp only [Except.ok.injEq] at ho; subst ho; rfl
  · split at ho
    · simp at ho
    · simp only [Except.ok.injEq] at ho; subst ho; rfl

/-! ### Completions -/

/-- A failure completion (60_exceptions.md R196), whole. -/
theorem State.finish_error (s : State) (f : Failure) : s.finish (.error f) = s.fail f := rfl

/-- A success completion (R198), whole. -/
theorem State.finish_ok (s : State) (c : Commit) : s.finish (.ok c) = s.commit c := rfl

/-- A completion leaves the sequencer idle with DONE set and nothing latched. -/
theorem State.finish_idle (s : State) (r : Except Failure Commit) :
    (s.finish r).phase = .idle ∧ (s.finish r).done = true ∧ (s.finish r).latch = Latch.empty ∧ (s.finish r).row = 0 := by
  cases r <;> exact ⟨rfl, rfl, rfl, rfl⟩

/-- A commit that fits keeps the memory's canonical form. -/
theorem State.commit_wf (s : State) (c : Commit) (hf : c.Fits s.memSize.toNat s.latch)
    (hm : s.mem.wf s.memSize.toNat = true) : (s.commit c).mem.wf s.memSize.toNat = true := by
  rw [State.commit_mem]
  apply Memory.wf_writeBytes _ _ _ hm
  rcases hf with h | ⟨h, hd⟩
  · left; exact h
  · exact Latch.output_fits hd h

/-- A commit that fits stores only inside the destination region (20_memory.md R57). -/
theorem State.commit_read_outside (s : State) (c : Commit) (size x : Nat) (hf : c.Fits size s.latch)
    (hx : x < s.latch.dstAddr.toNat ∨ s.latch.dstAddr.toNat + s.latch.dstCap.toNat ≤ x) :
    (s.commit c).mem.read x = s.mem.read x := by
  rw [State.commit_mem]
  apply Memory.read_writeBytes_outside
  rcases hf with h | ⟨h, -⟩
  · rw [h]; simp only [List.length_nil]; omega
  · omega

/-- What a row operation can do (41_filter.md R120): write the row and go on, when the row lies in the memory. -/
theorem reconstructRow_next {pred : Nat → Nat → Nat → Nat} {s t : State} (h : reconstructRow pred s = .next t) :
    s.rowInMemory = true ∧
      t = { s with mem := s.mem.writeBytes s.reconAddr (s.reconstructed pred), row := s.row + 1 } := by
  unfold reconstructRow at h
  split at h
  · simp only [Host.Outcome.next.injEq] at h
    exact ⟨by assumption, h.symm⟩
  · simp at h

theorem reconstructRow_of_inMemory (pred : Nat → Nat → Nat → Nat) {s : State} (h : s.rowInMemory = true) :
    reconstructRow pred s =
      .next { s with mem := s.mem.writeBytes s.reconAddr (s.reconstructed pred), row := s.row + 1 } := by
  unfold reconstructRow
  rw [if_pos h]

/-- What FLT_RECON can do (R120): fail its checks or start at row 0. -/
theorem execFltRecon_next {s t : State} (h : execFltRecon s = .next t) :
    (∃ f, fltCheck s.memSize.toNat s.latch = some f ∧ t = s.fail f) ∨
      (fltCheck s.memSize.toNat s.latch = none ∧ t = { s with phase := .rows, row := 0 }) := by
  unfold execFltRecon at h
  split at h
  · rename_i f hf
    simp only [Host.Outcome.next.injEq] at h
    exact .inl ⟨f, hf, h.symm⟩
  · rename_i hf
    simp only [Host.Outcome.next.injEq] at h
    exact .inr ⟨hf, h.symm⟩

/-! ### Bounds of the parameters -/

theorem Config_memBytes_bounds : 16 ≤ Config.memBytes ∧ Config.memBytes ≤ 2 ^ 31 := by
  unfold Config.memBytes
  omega

/-- The register window and the buffer aperture do not overlap (20_memory.md R66). -/
theorem Config_ranges_disjoint :
    Config.memBase + Config.memBytes ≤ Config.regBase ∨ Config.regBase + 256 ≤ Config.memBase := by
  unfold Config.memBase
  split <;> omega

end Sys2Proof.Machine
end

