-- ==== Sys2Proof/Laws/HostPort.lean ====
section
/-! SUPPORT. What one host transaction does, one lemma per kind of access, and what a register write can do. -/

namespace Sys2Proof.Machine

/-- A register read (20_memory.md R54, R58, R60). -/
theorem State.hostAccess_regRead (s : State) (off : BitVec 8) (d : Word) (h : off.toNat % 4 = 0) :
    s.hostAccess ⟨.read, .reg off, .w32, d⟩ =
      (s.afterRead (regOfOffset off)).respond (.data (s.readReg (regOfOffset off))) := by
  unfold State.hostAccess Txn.taken
  simp only [h, beq_self_eq_true, if_true]

/-- A register write (R54). -/
theorem State.hostAccess_regWrite (s : State) (off : BitVec 8) (v : Word) (h : off.toNat % 4 = 0) :
    s.hostAccess ⟨.write, .reg off, .w32, v⟩ = (s.writeReg (regOfOffset off) v).respond .ack := by
  unfold State.hostAccess Txn.taken
  simp only [h, beq_self_eq_true, if_true]

/-- A buffer read the port takes (R52). -/
theorem State.hostAccess_memRead (s : State) (a : Nat) (w : Width) (d : Word)
    (h : Txn.taken s.memSize.toNat ⟨.read, .mem a, w, d⟩ = true) :
    s.hostAccess ⟨.read, .mem a, w, d⟩ = s.readBuffer a w := by
  unfold State.hostAccess
  rw [if_pos h]

/-- A buffer write the port takes (R52). -/
theorem State.hostAccess_memWrite (s : State) (a : Nat) (w : Width) (v : Word)
    (h : Txn.taken s.memSize.toNat ⟨.write, .mem a, w, v⟩ = true) :
    s.hostAccess ⟨.write, .mem a, w, v⟩ = (s.writeBuffer a w v).respond .ack := by
  unfold State.hostAccess
  rw [if_pos h]

/-- An access the port does not take (R52, R54). -/
theorem State.hostAccess_busError (s : State) (t : Txn) (h : t.taken s.memSize.toNat = false) :
    s.hostAccess t = s.respond .busError := by
  unfold State.hostAccess
  rw [if_neg (by simp [h])]

/-- The port takes an 8-bit buffer access exactly inside the memory (R52). -/
theorem Txn.taken_mem8 (size a : Nat) (dir : Dir) (v : Word) :
    Txn.taken size ⟨dir, .mem a, .w8, v⟩ = true ↔ a < size := by
  simp [Txn.taken]

/-- The port takes a 32-bit buffer access exactly aligned and inside the memory (R52). -/
theorem Txn.taken_mem32 (size a : Nat) (dir : Dir) (v : Word) :
    Txn.taken size ⟨dir, .mem a, .w32, v⟩ = true ↔ a % 4 = 0 ∧ a + 4 ≤ size := by
  simp [Txn.taken]

/-- A buffer access the port takes reaches only bytes of the memory. -/
theorem Txn.taken_inside {size a : Nat} {dir : Dir} {w : Width} {v : Word}
    (h : Txn.taken size ⟨dir, .mem a, w, v⟩ = true) : a + w.bytes ≤ size := by
  cases w
  · have := (Txn.taken_mem8 size a dir v).mp h
    simp only [Width.bytes]; omega
  · simp [Txn.taken] at h
  · exact ((Txn.taken_mem32 size a dir v).mp h).2

theorem State.ifIdle_busy {s t : State} (h : s.busy = true) : s.ifIdle t = s.overrun := by
  unfold State.ifIdle
  rw [if_pos h]

theorem State.ifIdle_idle {s t : State} (h : s.busy = false) : s.ifIdle t = t := by
  unfold State.ifIdle
  rw [if_neg (by simp [h])]

/-- What a register read leaves (20_memory.md R58, R60): nothing changes, or a STATUS read with BUSY = 0 or DONE = 1 is the
observation. -/
theorem State.afterRead_cases (s : State) (r : Option Reg) :
    s.afterRead r = s ∨ (s.afterRead r = s.observe ∧ r = some .status ∧ (s.busy = false ∨ s.done = true)) := by
  unfold State.afterRead State.observeStatus
  split
  · rename_i hr
    split
    · rename_i h
      exact .inr ⟨rfl, hr, by simpa using h⟩
    · exact .inl rfl
  · exact .inl rfl

/-- A read of any register but STATUS leaves everything as it is (R58). -/
@[simp] theorem State.afterRead_of_ne {s : State} {r : Option Reg} (h : r ≠ some .status) : s.afterRead r = s := if_neg h

/-- A STATUS read while BUSY = 0 is the observation of it (R60). -/
theorem State.afterRead_idle {s : State} (h : s.busy = false) : s.afterRead (some .status) = s.observe := by
  simp [State.afterRead, State.observeStatus, h]

/-- A STATUS read that returns BUSY = 1 and DONE = 0 is none. -/
theorem State.afterRead_busy {s : State} (h : s.busy = true) (hd : s.done = false) : s.afterRead (some .status) = s := by
  simp [State.afterRead, State.observeStatus, h, hd]

/-- Taking the interrupt does nothing, or is the observation of a completion (R60, R199). -/
theorem State.takeInterrupt_cases (s : State) :
    s.takeInterrupt = s ∨
      (s.takeInterrupt = { s.observe with justAccepted := false } ∧ s.irqEn = true ∧ s.done = true) := by
  unfold State.takeInterrupt
  split
  · rename_i h
    exact .inr ⟨rfl, by simpa [State.irq] using h⟩
  · exact .inl rfl

/-- After the observation every register reads as it stands (R60). -/
@[simp] theorem State.observe_readReg (s : State) (r : Option Reg) : s.observe.readReg r = s.regValue r := by
  cases r with
  | none => rfl
  | some r => cases r <;> rfl

/-- Only a result register reads as another value than it holds (R60). -/
theorem State.readReg_of_none {s : State} {r : Option Reg} (h : s.old.of r = none) : s.readReg r = s.regValue r := by
  unfold State.readReg
  rw [h]
  rfl

/-- From its acceptance on, and through the command, a result register reads as it stood before (R60, R61). -/
theorem State.readReg_of_results {s : State} (h : s.old = s.results) (r : Option Reg) : s.readReg r = s.regValue r := by
  unfold State.readReg
  rw [h]
  cases r with
  | none => rfl
  | some r => cases r <;> rfl

/-- Everything a register write can do (10_state.md R25 to R39; 20_memory.md R61). -/
theorem State.writeReg_cases (s : State) (r : Option Reg) (v : Word) :
    s.writeReg r v = s ∨ s.writeReg r v = s.overrun ∨
      s.writeReg r v = s.softReset ∨ s.writeReg r v = { s with irqEn := v.getLsbD 0 } ∨
      s.writeReg r v = s.clearStatus v ∨
      (s.busy = false ∧ (s.writeReg r v = s.accept v ∨ s.writeReg r v = { s with srcAddr := v } ∨
        s.writeReg r v = { s with srcLen := v } ∨ s.writeReg r v = { s with dstAddr := v } ∨
        s.writeReg r v = { s with dstCap := v } ∨
        s.writeReg r v = { s with width := v, old := { s.old with width := none } } ∨
        s.writeReg r v = { s with height := v, old := { s.old with height := none } } ∨
        s.writeReg r v = { s with padLen := v, old := { s.old with padLen := none } })) := by
  have hid : ∀ t : State, (s.busy = true ∧ s.ifIdle t = s.overrun) ∨ (s.busy = false ∧ s.ifIdle t = t) := by
    intro t
    cases hb : s.busy
    · exact .inr ⟨rfl, State.ifIdle_idle hb⟩
    · exact .inl ⟨rfl, State.ifIdle_busy hb⟩
  cases r with
  | none => exact .inl rfl
  | some r =>
    cases r
    case ctrl =>
      unfold State.writeReg State.writeCtrl
      cases v.getLsbD 1
      · exact .inr (.inr (.inr (.inl rfl)))
      · exact .inr (.inr (.inl rfl))
    case status => exact .inr (.inr (.inr (.inr (.inl rfl))))
    case cmd =>
      rcases hid (s.accept v) with ⟨-, h⟩ | ⟨hb, h⟩
      · simp [State.writeReg, h]
      · simp [State.writeReg, h, hb]
    case srcAddr =>
      rcases hid { s with srcAddr := v } with ⟨-, h⟩ | ⟨hb, h⟩
      · simp [State.writeReg, h]
      · simp [State.writeReg, h, hb]
    case srcLen =>
      rcases hid { s with srcLen := v } with ⟨-, h⟩ | ⟨hb, h⟩
      · simp [State.writeReg, h]
      · simp [State.writeReg, h, hb]
    case dstAddr =>
      rcases hid { s with dstAddr := v } with ⟨-, h⟩ | ⟨hb, h⟩
      · simp [State.writeReg, h]
      · simp [State.writeReg, h, hb]
    case dstCap =>
      rcases hid { s with dstCap := v } with ⟨-, h⟩ | ⟨hb, h⟩
      · simp [State.writeReg, h]
      · simp [State.writeReg, h, hb]
    case width =>
      rcases hid { s with width := v, old := { s.old with width := none } } with ⟨-, h⟩ | ⟨hb, h⟩
      · simp [State.writeReg, h]
      · simp [State.writeReg, h, hb]
    case height =>
      rcases hid { s with height := v, old := { s.old with height := none } } with ⟨-, h⟩ | ⟨hb, h⟩
      · simp [State.writeReg, h]
      · simp [State.writeReg, h, hb]
    case padLen =>
      rcases hid { s with padLen := v, old := { s.old with padLen := none } } with ⟨-, h⟩ | ⟨hb, h⟩
      · simp [State.writeReg, h]
      · simp [State.writeReg, h, hb]
    all_goals exact .inl rfl

/-- Everything a host transaction can do: a bus error, a register read or write, a buffer read or write. -/
theorem State.hostAccess_cases (s : State) (t : Txn) :
    s.hostAccess t = s.respond .busError ∨
      (∃ r v, s.hostAccess t = (s.afterRead r).respond (.data v)) ∨
      (∃ r v, s.hostAccess t = (s.writeReg r v).respond .ack) ∨
      (∃ a w, t.target = .mem a ∧ t.dir = .read ∧ s.hostAccess t = s.readBuffer a w) ∨
      (∃ a w v, a + Width.bytes w ≤ s.memSize.toNat ∧ s.hostAccess t = (s.writeBuffer a w v).respond .ack) := by
  cases ht : t.taken s.memSize.toNat with
  | false => exact .inl (State.hostAccess_busError s t ht)
  | true =>
    obtain ⟨dir, target, w, v⟩ := t
    unfold State.hostAccess
    rw [if_pos ht]
    cases target with
    | reg off =>
      cases dir
      · exact .inr (.inl ⟨_, _, rfl⟩)
      · exact .inr (.inr (.inl ⟨_, _, rfl⟩))
    | mem a =>
      cases dir
      · exact .inr (.inr (.inr (.inl ⟨a, w, rfl, rfl, rfl⟩)))
      · exact .inr (.inr (.inr (.inr ⟨a, w, v, Txn.taken_inside ht, rfl⟩)))

/-- A buffer read answers, and counts its draws (R60, R61). -/
theorem State.readBuffer_eq (s : State) (a : Nat) (w : Width) :
    ∃ v, s.readBuffer a w = { s.respond (.data v) with draws := s.draws + s.busDraws a w.bytes } := ⟨_, rfl⟩

/-- While BUSY = 1 every byte is hidden (R61). -/
theorem State.hidden_of_busy {s : State} (h : s.busy = true) (a : Nat) : s.hidden a = true := by
  simp [State.hidden, h]

/-- While BUSY = 0 a byte is hidden exactly inside the destination region of a command whose end has not been observed (R60). -/
theorem State.hidden_of_idle {s : State} (h : s.busy = false) (a : Nat) :
    s.hidden a = true ↔ ∃ r ∈ s.unseen, r.addr ≤ a ∧ a < r.addr + r.len := by
  simp [State.hidden, h, Region.contains]

/-- Taking bytes out of a region takes out exactly those. -/
theorem Region.without_contains (r : Region) (a n x : Nat) :
    (∃ g ∈ r.without a n, g.contains x = true) ↔ r.contains x = true ∧ (x < a ∨ a + n ≤ x) := by
  simp only [Region.without, List.mem_filter, List.mem_cons, List.not_mem_nil, or_false, Region.contains,
    Bool.and_eq_true, decide_eq_true_eq, bne_iff_ne]
  constructor
  · rintro ⟨g, ⟨rfl | rfl, -⟩, h⟩
    · dsimp only at h; omega
    · dsimp only at h; omega
  · rintro ⟨h, hx | hx⟩
    · exact ⟨_, ⟨.inl rfl, by dsimp only; omega⟩, by dsimp only; omega⟩
    · exact ⟨_, ⟨.inr rfl, by dsimp only; omega⟩, by dsimp only; omega⟩

/-- After a host write to the buffer while BUSY = 0 the bytes written are visible, and every other byte as before (R69). -/
theorem State.writeBuffer_hidden {s : State} (h : s.busy = false) (a : Nat) (w : Width) (v : Word) (x : Nat) :
    (s.writeBuffer a w v).hidden x = true ↔ s.hidden x = true ∧ (x < a ∨ a + w.bytes ≤ x) := by
  have hb : (s.writeBuffer a w v).busy = false := by
    unfold State.writeBuffer
    rw [State.ifIdle_idle h]
    exact h
  have hu : (s.writeBuffer a w v).unseen = s.unseen.flatMap (fun r => r.without a w.bytes) := by
    unfold State.writeBuffer
    rw [State.ifIdle_idle h]
  unfold State.hidden
  rw [hb, h, hu]
  simp only [Bool.false_or, List.any_eq_true, List.mem_flatMap]
  constructor
  · rintro ⟨g, ⟨r, hr, hg⟩, hx⟩
    have := (Region.without_contains r a w.bytes x).mp ⟨g, hg, hx⟩
    exact ⟨⟨r, hr, this.1⟩, this.2⟩
  · rintro ⟨⟨r, hr, hc⟩, hx⟩
    obtain ⟨g, hg, hgx⟩ := (Region.without_contains r a w.bytes x).mpr ⟨hc, hx⟩
    exact ⟨g, ⟨r, hr, hg⟩, hgx⟩

/-- After the observation no byte is hidden (R60). -/
@[simp] theorem State.observe_hidden {s : State} (h : s.busy = false) (a : Nat) : s.observe.hidden a = false := by
  have : s.observe.busy = s.busy := rfl
  simp [State.hidden, this, h]

/-- A byte that is not hidden reads as the memory holds it. -/
theorem State.busByte_of_visible {s : State} {a k : Nat} (h : s.hidden (a + k) = false) : s.busByte a k = s.mem.read (a + k) := by
  simp [State.busByte, h]

/-- An access whose bytes are all visible draws nothing. -/
theorem State.busDraws_of_visible {s : State} {a n : Nat} (h : ∀ k, k < n → s.hidden (a + k) = false) : s.busDraws a n = 0 := by
  unfold State.busDraws
  rw [if_neg]
  simp only [List.any_eq_true, List.mem_range]
  rintro ⟨k, hk, hh⟩
  simp [h k hk] at hh

/-- An access with a hidden byte draws one number a byte (log 6). -/
theorem State.busDraws_of_hidden {s : State} {a n k : Nat} (hk : k < n) (h : s.hidden (a + k) = true) : s.busDraws a n = n := by
  unfold State.busDraws
  rw [if_pos]
  simp only [List.any_eq_true, List.mem_range]
  exact ⟨k, hk, h⟩

/-- Host-bus addresses: each access of the register window reaches its offset (R50). -/
theorem targetOfAddr_reg (size : Nat) (off : BitVec 8) :
    targetOfAddr size (Target.hostAddr (.reg off)) = some (.reg off) := by
  have := off.isLt
  have h : Target.hostAddr (.reg off) = Config.regBase + off.toNat := rfl
  unfold targetOfAddr
  rw [h, if_pos (by omega)]
  simp

/-- Host-bus addresses: each byte of the aperture is reached at MEM_BASE plus its address (R50, R66). -/
theorem targetOfAddr_mem (a : Nat) (h : a < Config.memBytes) :
    targetOfAddr Config.memBytes (Target.hostAddr (.mem a)) = some (.mem a) := by
  have := Config_ranges_disjoint
  have h' : Target.hostAddr (.mem a) = Config.memBase + a := rfl
  unfold targetOfAddr
  rw [h', if_neg (by omega), if_pos (by omega)]
  simp

end Sys2Proof.Machine
end

