-- ==== Sys2Proof/Laws/Step.lean ====
section
/-! SUPPORT. What one step can do, said once. -/

namespace Sys2Proof.Machine

theorem State.turn_sequencer {s : State} (h : s.turn = .sequencer) : s.busy = true := by
  unfold State.turn at h
  split at h
  · split at h
    · assumption
    · simp at h
  · split at h
    · simp_all
    · simp at h

/-- A step is of nobody, of the host, or of the sequencer: the latched or fetched instruction, an illegal word, a bad
filter byte, or the end of the row walk. -/
theorem step_cases {s t : State} (h : step s = .next t) :
    (s.turn = .nobody ∧ t = s) ∨
      (∃ p rest, s.turn = .host p rest ∧ t = State.hostEvent { s with host := rest } p.event) ∨
      (s.turn = .sequencer ∧ ∃ i, fetch s = .instr i ∧ exec i s.tick = .next t) ∨
      (s.turn = .sequencer ∧ fetch s = .illegal s.latch.word ∧ t = s.tick.illegalCommand s.latch.word) ∨
      (s.turn = .sequencer ∧ fetch s = .badFilter ∧ t = s.tick.invalidFilter) ∨
      (s.turn = .sequencer ∧ fetch s = .rowsDone ∧ t = s.tick.rowsComplete) := by
  unfold step at h
  split at h
  · simp only [Host.Outcome.next.injEq] at h
    exact .inl ⟨by assumption, h.symm⟩
  · rename_i p rest hp
    simp only [Host.Outcome.next.injEq] at h
    exact .inr (.inl ⟨p, rest, hp, h.symm⟩)
  · rename_i hs
    split at h
    · rename_i i hi
      exact .inr (.inr (.inl ⟨hs, i, hi, h⟩))
    · rename_i w hw
      simp only [Host.Outcome.next.injEq] at h
      have : w = s.latch.word := by
        unfold fetch at hw
        split at hw
        all_goals (split at hw <;> first | simp_all | (split at hw <;> simp_all))
      subst this
      exact .inr (.inr (.inr (.inl ⟨hs, hw, h.symm⟩)))
    · rename_i hf
      simp only [Host.Outcome.next.injEq] at h
      exact .inr (.inr (.inr (.inr (.inl ⟨hs, hf, h.symm⟩))))
    · rename_i hf
      simp only [Host.Outcome.next.injEq] at h
      exact .inr (.inr (.inr (.inr (.inr ⟨hs, hf, h.symm⟩))))

/-- What the sequencer fetches outside the row walk is the latched command. -/
theorem fetch_command {s : State} (h : s.phase ≠ .rows) :
    (∃ i, decodeCommand s.latch.word = .ok i ∧ fetch s = .instr i) ∨
      (∃ e, decodeCommand s.latch.word = .error e ∧ fetch s = .illegal s.latch.word) := by
  unfold fetch
  cases hp : s.phase with
  | rows => exact absurd hp h
  | idle | command =>
    cases hd : decodeCommand s.latch.word with
    | ok i => exact .inl ⟨i, rfl, by simp⟩
    | error e => exact .inr ⟨e, rfl, by simp⟩

/-- What the sequencer fetches in the row walk is the row's filter type, a bad filter byte, or the end of the rows. -/
theorem fetch_rows {s : State} (h : s.phase = .rows) :
    (s.row < s.latch.height.toNat ∧ ∃ i, decodeFilter s.filterByte = .ok i ∧ fetch s = .instr i) ∨
      (s.row < s.latch.height.toNat ∧ (∃ e, decodeFilter s.filterByte = .error e) ∧ fetch s = .badFilter) ∨
      (s.latch.height.toNat ≤ s.row ∧ fetch s = .rowsDone) := by
  unfold fetch
  simp only [h]
  by_cases hr : s.row < s.latch.height.toNat
  · cases hd : decodeFilter s.filterByte with
    | ok i => exact .inl ⟨hr, i, rfl, by simp [hr]⟩
    | error e => exact .inr (.inl ⟨hr, ⟨e, rfl⟩, by simp [hr]⟩)
  · exact .inr (.inr ⟨by omega, by simp [hr]⟩)

/-- A command that is one atomic transformation either fails or commits (00_scope.md R14). -/
theorem State.finish_cases (s : State) (r : Except Failure Commit) :
    (∃ f, r = .error f ∧ s.finish r = s.fail f) ∨ (∃ c, r = .ok c ∧ s.finish r = s.commit c) := by
  cases r with
  | error f => exact .inl ⟨f, rfl, rfl⟩
  | ok c => exact .inr ⟨c, rfl, rfl⟩

/-- The host access that R42 says observes BUSY = 1 is made before any sequencer step. -/
theorem State.turn_of_hostFirst {s : State} {p : Pending} {rest : List Pending} (h : s.host = p :: rest)
    (hf : s.hostFirst p.event = true) : s.turn = .host p rest := by
  simp [State.turn, h, hf]

/-- The placed instruction is what the next step runs (log 9). -/
theorem step_placeCommand (s : State) (w : Word) (i : Instr) (h : decodeCommand w = .ok i) :
    step (s.placeCommand w) = exec i { s.accept w with justAccepted := false } := by
  have ht : (s.placeCommand w).turn = .sequencer := by
    cases hh : s.host <;>
      simp [State.turn, State.placeCommand, State.delayHost, State.busy, State.accept, State.hostFirst, hh]
  have hf : fetch (s.placeCommand w) = .instr i := by
    have : (s.placeCommand w).phase = .command := rfl
    have h2 : (s.placeCommand w).latch.word = w := rfl
    simp only [fetch, this, h2, h]
  have he : (s.placeCommand w).tick = { s.accept w with justAccepted := false } :=
    State.delayHost_tick { s.accept w with justAccepted := false }
  simp only [step, ht, hf, he]

end Sys2Proof.Machine
end

