-- ==== Sys2Proof/Laws/HostProgram.lean ====
section
/-! SUPPORT. Host programs: what the port answers, and what a finished WAIT has seen (30_encoding.md R90). -/

namespace Sys2Proof.Machine

/-- A host access is answered once (20_memory.md R52 to R54). -/
theorem State.hostAccess_answers (s : State) (t : Txn) :
    (s.hostAccess t).responses = (s.hostAccess t).answer :: s.responses := by
  have key : ∀ u : State, ∀ r : Response, u.responses = s.responses →
      (u.respond r).responses = (u.respond r).answer :: s.responses := by
    intro u r h
    show r :: u.responses = r :: s.responses
    rw [h]
  have hw : ∀ (r : Option Reg) (v : Word), (s.writeReg r v).responses = s.responses := by
    intro r v
    rcases State.writeReg_cases s r v with h | h | h | h | h | ⟨-, h | h | h | h | h | h | h | h⟩ <;> rw [h] <;> rfl
  rcases State.hostAccess_cases s t with h | ⟨r, v, h⟩ | ⟨r, v, h⟩ | ⟨a, w, -, -, h⟩ | ⟨a, w, v, -, h⟩
  · rw [h]; exact key s _ rfl
  · rw [h]
    apply key
    rcases State.afterRead_cases s r with ha | ⟨ha, -, -⟩ <;> rw [ha]
    rfl
  · rw [h]; exact key _ _ (hw r v)
  · obtain ⟨v, hv⟩ := State.readBuffer_eq s a w
    rw [h, hv]; rfl
  · rw [h]
    apply key
    unfold State.writeBuffer
    cases hb : s.busy
    · rw [State.ifIdle_idle hb]
    · rw [State.ifIdle_busy hb]; rfl

/-- `RD STATUS` answers the STATUS word. -/
@[simp] theorem State.answer_readStatus (s : State) : (s.hostAccess (hostRD .status)).answer.value = s.statusWord := by
  have : s.hostAccess (hostRD .status) =
      (s.afterRead (regOfOffset (Reg.offset .status))).respond (.data (s.readReg (regOfOffset (Reg.offset .status)))) :=
    State.hostAccess_regRead s _ 0 (by decide)
  rw [this]
  rfl

/-- So does the event of reading STATUS. -/
@[simp] theorem State.answer_statusEvent (s : State) :
    (s.hostEvent (.access (hostRD .status))).answer.value = s.statusWord := State.answer_readStatus _

/-- The STATUS read that ends a WAIT is the observation of BUSY = 0 (20_memory.md R60). -/
theorem State.hostAccess_readStatus_idle {s : State} (h : s.busy = false) :
    s.hostAccess (hostRD .status) = s.observe.respond (.data s.statusWord) := by
  have ht : s.hostAccess (hostRD .status) = (s.afterRead (some .status)).respond (.data s.statusWord) :=
    State.hostAccess_regRead s (Reg.offset .status) 0 (by decide)
  rw [ht, State.afterRead_idle h]

/-- Bit 0 of STATUS is BUSY (10_state.md R27). -/
@[simp] theorem State.statusWord_bit0 (s : State) : s.statusWord.getLsbD 0 = s.busy := by
  unfold State.statusWord
  cases s.busy <;> cases s.done <;> cases s.err <;> cases s.ovr <;> rfl

/-- A finished WAIT has read STATUS with BUSY = 0, and its program went on from that access with that value. -/
theorem HostProgram.run_wait {α : Type} {next : Word → HostProgram α} {sched : List Nat} {s : State} {r : HostRun α}
    (h : (HostProgram.wait next).run sched s = some r) :
    ∃ (u : State) (rest : List Nat) (q : HostRun α), u.busy = false ∧
      (next u.statusWord).run rest (u.hostEvent (.access (hostRD .status))) = some q ∧
      q.result = r.result ∧ q.final = r.final := by
  induction sched generalizing s r with
  | nil => simp [HostProgram.run] at h
  | cons n sched ih =>
    rw [HostProgram.run] at h
    split at h
    · rename_i u _
      simp only [State.answer_statusEvent, State.statusWord_bit0, Option.map_eq_some_iff] at h
      obtain ⟨q, hq, rfl⟩ := h
      cases hb : u.busy
      · rw [hb] at hq
        exact ⟨u, sched, q, hb, by simpa using hq, rfl, rfl⟩
      · rw [hb] at hq
        obtain ⟨v, rest, q', hv, hq', h1, h2⟩ := ih (r := q) (by simpa using hq)
        exact ⟨v, rest, q', hv, hq', h1, h2⟩
    · simp at h
    · simp at h

end Sys2Proof.Machine
end

