-- ==== Sys2Proof/Laws/PerInstr.lean ====
section
/-! SUPPORT. The per-instruction family RoundTrip: what the encoding of each instruction is as syntax
(30_encoding.md R70 to R77). -/

namespace Sys2Proof.Laws

/-- The instruction is well formed, so is its encoding, and decoding that encoding gives the instruction back. -/
def RoundTrip.Statement (i : Instr) : Prop :=
  i.wellFormed = true ∧ (encode i).wellFormed = true ∧ decode (encode i) = .ok i

theorem RoundTrip.mapB2g : RoundTrip.Statement .mapB2g := ⟨rfl, rfl, rfl⟩

theorem RoundTrip.mapG2b : RoundTrip.Statement .mapG2b := ⟨rfl, rfl, rfl⟩

theorem RoundTrip.fltRecon : RoundTrip.Statement .fltRecon := ⟨rfl, rfl, rfl⟩

theorem RoundTrip.chkScan : RoundTrip.Statement .chkScan := ⟨rfl, rfl, rfl⟩

theorem RoundTrip.chkHdr : RoundTrip.Statement .chkHdr := ⟨rfl, rfl, rfl⟩

theorem RoundTrip.chkIdat : RoundTrip.Statement .chkIdat := ⟨rfl, rfl, rfl⟩

theorem RoundTrip.chkPlen : RoundTrip.Statement .chkPlen := ⟨rfl, rfl, rfl⟩

theorem RoundTrip.chkInspad : RoundTrip.Statement .chkInspad := ⟨rfl, rfl, rfl⟩

theorem RoundTrip.ftNone : RoundTrip.Statement .ftNone := ⟨rfl, rfl, rfl⟩

theorem RoundTrip.ftSub : RoundTrip.Statement .ftSub := ⟨rfl, rfl, rfl⟩

theorem RoundTrip.ftUp : RoundTrip.Statement .ftUp := ⟨rfl, rfl, rfl⟩

theorem RoundTrip.ftAverage : RoundTrip.Statement .ftAverage := ⟨rfl, rfl, rfl⟩

theorem RoundTrip.ftPaeth : RoundTrip.Statement .ftPaeth := ⟨rfl, rfl, rfl⟩

end Sys2Proof.Laws
end

