-- ==== Sys2Proof/Tests/Slice0.lean ====
section
/-! SUPPORT. The model's own tests. Expected results are the vectors of 95_test_vectors.md (named in each test's comment)
or words written out from 30_encoding.md. The theorems `witness_<obligation>` show states and operands that meet the
hypotheses of each statement of Certificates/Slice0/Obligations.lean, clause by clause. -/

namespace Sys2Proof.Tests

open Sys2Proof Sys2Proof.Machine

/-! ### Helpers -/

/-- A buffer memory with a byte string at an address. -/
def bytesAt (a : Nat) (bs : List Byte) : Memory := Memory.writeBytes [] a bs

/-- An idle machine with 4096 bytes of buffer memory (95_test_vectors.md, sections 3 and 6). -/
def machine (m : Memory) : State := { State.reset with memSize := 4096, mem := m }

/-- The machine with a command accepted: the word, the regions, and WIDTH, HEIGHT, PAD_LEN. -/
def accepted (w sa sl da dc width height pad : Word) (m : Memory) : State :=
  State.accept { machine m with
    srcAddr := sa, srcLen := sl, dstAddr := da, dstCap := dc, width := width, height := height, padLen := pad } w

/-- The machine in the row walk of an FLT_RECON, at a row. -/
def walking (row : Nat) (sa sl da dc width height : Word) (m : Memory) : State :=
  { accepted 0x00000011 sa sl da dc width height 0 m with phase := .rows, row := row }

/-- The outcome is a next state of which the test holds. -/
def goes (o : Host.Outcome State Fault Refusal) (test : State → Bool) : Bool :=
  match o with
  | .next t => test t
  | .fault _ => false
  | .refused _ => false

/-- The outcome is the failure completion with this code and ERR_INFO (60_exceptions.md R196). -/
def failsWith (o : Host.Outcome State Fault Refusal) (code : ErrCode) (info : Word) : Bool :=
  goes o (fun t => t.statusWord == 0x6 && t.errCode == code && t.errInfo == info)

/-- 95_test_vectors.md section 4, K60. -/
def k60 : List Byte :=
  [0x89, 0x50, 0x4E, 0x47, 0x0D, 0x0A, 0x1A, 0x0A, 0x00, 0x00, 0x00, 0x0D, 0x49, 0x48, 0x44, 0x52] ++
  [0x00, 0x00, 0x00, 0x02, 0x00, 0x00, 0x00, 0x01, 0x08, 0x06, 0x00, 0x00, 0x00, 0x00, 0x00, 0x00] ++
  [0x00, 0x00, 0x00, 0x00, 0x03, 0x49, 0x44, 0x41, 0x54, 0xAA, 0xBB, 0xCC, 0x00, 0x00, 0x00, 0x00] ++
  [0x00, 0x00, 0x00, 0x00, 0x49, 0x45, 0x4E, 0x44, 0x00, 0x00, 0x00, 0x00]

/-- 95_test_vectors.md section 4, K76. -/
def k76 : List Byte :=
  [0x89, 0x50, 0x4E, 0x47, 0x0D, 0x0A, 0x1A, 0x0A, 0x00, 0x00, 0x00, 0x0D, 0x49, 0x48, 0x44, 0x52] ++
  [0x00, 0x00, 0x00, 0x02, 0x00, 0x00, 0x00, 0x01, 0x08, 0x06, 0x00, 0x00, 0x00, 0x00, 0x00, 0x00] ++
  [0x00, 0x00, 0x00, 0x00, 0x03, 0x49, 0x44, 0x41, 0x54, 0xAA, 0xBB, 0xCC, 0x00, 0x00, 0x00, 0x00] ++
  [0x00, 0x00, 0x00, 0x04, 0x70, 0x6C, 0x45, 0x4E, 0x00, 0x00, 0x00, 0x02, 0x00, 0x00, 0x00, 0x00] ++
  [0x00, 0x00, 0x00, 0x00, 0x49, 0x45, 0x4E, 0x44, 0x00, 0x00, 0x00, 0x00]

/-- SIG, the default value of 00_scope.md R6. -/
def sigBytes : List Byte := [0x89, 0x50, 0x4E, 0x47, 0x0D, 0x0A, 0x1A, 0x0A]

/-- The chunks of K60 (95_test_vectors.md section 4). -/
def k60Chunks : List Chunk :=
  [⟨8, 13, [0x49, 0x48, 0x44, 0x52]⟩, ⟨33, 3, [0x49, 0x44, 0x41, 0x54]⟩, ⟨48, 0, [0x49, 0x45, 0x4E, 0x44]⟩]

/-- The single-row source of 95_test_vectors.md section 2. -/
def oneRow (ft : Byte) : List Byte := [ft, 0x10, 0x20, 0x30, 0x40, 0x01, 0x02, 0x03, 0xF0]

/-- The two-row source of 95_test_vectors.md section 2, row 0 already reconstructed at 0x100. -/
def twoRows (ft : Byte) : Memory :=
  Memory.writeBytes
    (bytesAt 0 [0x01, 0x10, 0x20, 0x30, 0x40, 0x01, 0x02, 0x03, 0x04, ft, 0x05, 0x06, 0x07, 0x08, 0xFF, 0x80, 0x01, 0x00])
    0x100 [0x10, 0x20, 0x30, 0x40, 0x11, 0x22, 0x33, 0x44]

/-- A state of the invariant about to run FLT_RECON on F12's source. -/
def beforeF12 : State := accepted 0x11 0 18 0x100 16 2 2 0
  (bytesAt 0 [0x01, 0x10, 0x20, 0x30, 0x40, 0x01, 0x02, 0x03, 0x04, 0x04, 0x05, 0x06, 0x07, 0x08, 0xFF, 0x80, 0x01, 0x00])

/-! ### Well-formedness: an ill-formed term for each check -/

/-- R70: RSV must be 0 (X1). -/
theorem test_wf_rsv : (Code.command 0x00000100).wellFormed = false := by decide

/-- R71, R72: OPC must be assigned (X2, X3). -/
theorem test_wf_opc : (Code.command 0x00000012).wellFormed = false ∧ (Code.command 0).wellFormed = false := by decide

/-- R77: filter bytes 5 to 255 are ill formed. -/
theorem test_wf_filter : (Code.filter 5).wellFormed = false ∧ (Code.filter 255).wellFormed = false ∧
    (Code.filter 4).wellFormed = true := by decide

/-- R6: a tag of 3 bytes is ill formed. -/
theorem test_wf_tag_length :
    tagsWellFormed [0x49, 0x48, 0x44] Config.format.tagDat Config.format.tagEnd Config.format.tagPad = false := by decide

/-- R6: two equal tags are ill formed, whichever two they are; the defaults are well formed. -/
theorem test_wf_tags_distinct :
    tagsWellFormed Config.format.tagDat Config.format.tagDat Config.format.tagEnd Config.format.tagPad = false ∧
    tagsWellFormed Config.format.tagEnd Config.format.tagDat Config.format.tagEnd Config.format.tagPad = false ∧
    tagsWellFormed Config.format.tagPad Config.format.tagDat Config.format.tagEnd Config.format.tagPad = false ∧
    tagsWellFormed Config.format.tagHdr Config.format.tagEnd Config.format.tagEnd Config.format.tagPad = false ∧
    tagsWellFormed Config.format.tagHdr Config.format.tagPad Config.format.tagEnd Config.format.tagPad = false ∧
    tagsWellFormed Config.format.tagHdr Config.format.tagDat Config.format.tagPad Config.format.tagPad = false ∧
    tagsWellFormed Config.format.tagHdr Config.format.tagDat Config.format.tagEnd Config.format.tagPad = true := by decide

/-- R54: a register access must be 32-bit and at a multiple of 4. -/
theorem test_wf_register_access :
    Txn.taken 4096 ⟨.read, .reg 0x21, .w32, 0⟩ = false ∧ Txn.taken 4096 ⟨.read, .reg 0x20, .w8, 0⟩ = false ∧
    Txn.taken 4096 ⟨.read, .reg 0x20, .w16, 0⟩ = false ∧ Txn.taken 4096 ⟨.read, .reg 0x20, .w32, 0⟩ = true := by decide

/-- R52: a buffer access must be 8-bit or aligned 32-bit, and inside the memory. -/
theorem test_wf_buffer_access :
    Txn.taken 4096 ⟨.write, .mem 0, .w16, 0⟩ = false ∧ Txn.taken 4096 ⟨.write, .mem 2, .w32, 0⟩ = false ∧
    Txn.taken 4096 ⟨.write, .mem 4096, .w8, 0⟩ = false ∧ Txn.taken 4094 ⟨.write, .mem 4092, .w32, 0⟩ = false ∧
    Txn.taken 4096 ⟨.write, .mem 4092, .w32, 0⟩ = true := by decide

/-! ### Decoding: every row's word bit by bit -/

/-- R70, R71: RSV 24 zeros, then OPC: unit 0x0, operation 0x1 and 0x2 for the mapper, 0x11 for FLT_RECON. -/
theorem test_decode_mapper_filter :
    decodeTableWord 32 0b000000000000000000000000_00000001 = some .mapB2g ∧
    decodeTableWord 32 0b000000000000000000000000_00000010 = some .mapG2b ∧
    decodeTableWord 32 0b000000000000000000000000_00010001 = some .fltRecon := by decide

/-- R70, R71: the chunk commands 0x21 to 0x25. -/
theorem test_decode_chunk :
    decodeTableWord 32 0b000000000000000000000000_00100001 = some .chkScan ∧
    decodeTableWord 32 0b000000000000000000000000_00100010 = some .chkHdr ∧
    decodeTableWord 32 0b000000000000000000000000_00100011 = some .chkIdat ∧
    decodeTableWord 32 0b000000000000000000000000_00100100 = some .chkPlen ∧
    decodeTableWord 32 0b000000000000000000000000_00100101 = some .chkInspad := by decide

/-- R75, R76: the five filter-type bytes. -/
theorem test_decode_filters :
    decodeTableWord 8 0b00000000 = some .ftNone ∧ decodeTableWord 8 0b00000001 = some .ftSub ∧
    decodeTableWord 8 0b00000010 = some .ftUp ∧ decodeTableWord 8 0b00000011 = some .ftAverage ∧
    decodeTableWord 8 0b00000100 = some .ftPaeth := by decide

/-- R72, R73, R77: a filter byte is no command word, a command is no byte, and no other length exists. -/
theorem test_decode_refuses :
    decodeTableWord 32 0b10000000000000000000000000000001 = none ∧ decodeTableWord 32 0x26 = none ∧
    decodeTableWord 32 0x03 = none ∧ decodeTableWord 8 0x11 = none ∧ decodeTableWord 8 0x05 = none ∧
    decodeTableWord 16 0x01 = none := by decide

/-! ### Reset and placement -/

/-- R220: register values after reset, at the offsets of R21. -/
theorem test_reset_registers :
    State.reset.readReg (regOfOffset 0x00) = 0x50504342 ∧ State.reset.readReg (regOfOffset 0x08) = 0x8000 ∧
    State.reset.readReg (regOfOffset 0x14) = 0 ∧ State.reset.readReg (regOfOffset 0x40) = 0 := by decide

/-- A command placed at reset is run by the next step: CHK_PLEN of an empty source fails with BAD_SIGNATURE (R152). -/
theorem test_placed_command : failsWith (step (State.reset.withFetchWord 32 0x24)) .badSignature 0 = true := by decide

/-- A filter type placed at reset is run by the next step: the row is done (R120). -/
theorem test_placed_filter : goes (step (State.reset.withFetchWord 8 0x04)) (fun t => t.row == 1) = true := by decide

/-- X1: an illegal word placed at reset. -/
theorem test_placed_illegal : failsWith (step (State.reset.withFetchWord 32 0x100)) .illegalCommand 0x100 = true := by decide

/-! ### Grid mapper -/

/-- M8: seven bytes to a 3 x 1 grid. -/
theorem test_map_b2g_m8 :
    goes (exec .mapB2g (accepted 1 0 7 0x100 0x40 0 0 0 (bytesAt 0 [0x41, 0x42, 0x43, 0x44, 0x45, 0x46, 0x47])))
      (fun t => t.mem.readBytes 0x100 12 == [0x41, 0x42, 0x43, 0xFF, 0x44, 0x45, 0x46, 0xFF, 0x47, 0, 0, 0xFF] &&
        t.width == 3 && t.height == 1 && t.padLen == 3 && t.dstLen == 12 && t.statusWord == 0x2) = true := by decide

/-- M29, M24: an empty source that starts at the end of the memory is in range; a grid that does not fit. -/
theorem test_map_b2g_m29_m24 :
    goes (exec .mapB2g (accepted 1 4096 0 0 4 0 0 0 [])) (fun t => t.mem.readBytes 0 4 == [0, 0, 0, 0xFF]) = true ∧
    failsWith (exec .mapB2g (accepted 1 0 7 0x100 11 0 0 0 [])) .dstOverflow 12 = true := by decide

/-- M11, M14, M15, M16: the dimensions near MAX_DIM. -/
theorem test_grid_near_max_dim :
    (gridWidth 32768 98302, gridHeight 32768 98302, gridTotal 32768 98302, gridPad 32768 98302) = (16384, 2, 131072, 3) ∧
    (gridWidth 32768 98305, gridHeight 32768 98305, gridTotal 32768 98305, gridPad 32768 98305) = (16385, 2, 131080, 7) ∧
    (gridWidth 32768 196605, gridHeight 32768 196605, gridTotal 32768 196605, gridPad 32768 196605) = (32768, 2, 262144, 4) ∧
    (gridWidth 32768 196608, gridHeight 32768 196608, gridTotal 32768 196608, gridPad 32768 196608) = (21846, 3, 262152, 8) := by
  decide

/-- M25, M26, M27: the region checks. -/
theorem test_regions_m25_m26_m27 :
    failsWith (exec .mapB2g (accepted 1 4090 7 0x100 0x40 0 0 0 [])) .regionRange 0 = true ∧
    failsWith (exec .mapB2g (accepted 1 0 7 4090 0x40 0 0 0 [])) .regionRange 1 = true ∧
    failsWith (exec .mapB2g (accepted 1 0 7 6 0x40 0 0 0 [])) .regionOverlap 0 = true := by decide

/-- M20, M18: the alpha bytes are skipped, also where the usable length is no multiple of 4. -/
theorem test_map_g2b_m20_m18 :
    goes (exec .mapG2b (accepted 2 0 8 0x100 8 0 0 1 (bytesAt 0 [1, 2, 3, 4, 5, 6, 7, 8])))
      (fun t => t.mem.readBytes 0x100 6 == [1, 2, 3, 5, 6, 7] && t.dstLen == 6) = true ∧
    goes (exec .mapG2b (accepted 2 0 5 0x100 8 0 0 0 (bytesAt 0 [1, 2, 3, 4, 5])))
      (fun t => t.mem.readBytes 0x100 4 == [1, 2, 3, 5] && t.dstLen == 4) = true := by decide

/-- M22, M23, X4: its errors, in the order of R195. -/
theorem test_map_g2b_errors :
    failsWith (exec .mapG2b (accepted 2 0 8 0x100 16 0 0 9 [])) .badPadLength 9 = true ∧
    failsWith (exec .mapG2b (accepted 2 0 8 0x100 5 0 0 0 [])) .dstOverflow 6 = true ∧
    failsWith (exec .mapG2b (accepted 2 0 8 4 16 0 0 9 [])) .regionOverlap 0 = true := by decide

/-! ### Filter bank -/

/-- F26, F27, F31: the size errors. -/
theorem test_flt_recon_sizes :
    failsWith (exec .fltRecon (accepted 0x11 0 17 0x100 16 2 2 0 [])) .shortScanlineData 0x12 = true ∧
    failsWith (exec .fltRecon (accepted 0x11 0 18 0x100 15 2 2 0 [])) .dstOverflow 0x10 = true ∧
    failsWith (exec .fltRecon (accepted 0x11 0 18 0x100 16 0x10000 0x10000 0 [])) .shortScanlineData 0xFFFFFFFF = true := by
  decide

/-- F28: no rows: the command succeeds with DST_LEN 0. -/
theorem test_flt_recon_empty :
    goes (Host.Core.run core 2 (accepted 0x11 0 0 0 0 5 0 0 []))
      (fun t => t.statusWord == 0x2 && t.dstLen == 0) = true := by decide

/-- F1, F8: None. -/
theorem test_ft_none :
    goes (exec .ftNone (walking 1 0 18 0x100 16 2 2 (twoRows 0)))
      (fun t => t.mem.readBytes 0x108 8 == [0x05, 0x06, 0x07, 0x08, 0xFF, 0x80, 0x01, 0x00] && t.row == 2) = true := by
  decide

/-- F2, F9: Sub, with a wrap. -/
theorem test_ft_sub :
    goes (exec .ftSub (walking 0 0 9 0x100 8 2 1 (bytesAt 0 (oneRow 1))))
      (fun t => t.mem.readBytes 0x100 8 == [0x10, 0x20, 0x30, 0x40, 0x11, 0x22, 0x33, 0x30]) = true ∧
    goes (exec .ftSub (walking 1 0 18 0x100 16 2 2 (twoRows 1)))
      (fun t => t.mem.readBytes 0x108 8 == [0x05, 0x06, 0x07, 0x08, 0x04, 0x86, 0x08, 0x08]) = true := by decide

/-- F3, F10: Up. -/
theorem test_ft_up :
    goes (exec .ftUp (walking 0 0 9 0x100 8 2 1 (bytesAt 0 (oneRow 2))))
      (fun t => t.mem.readBytes 0x100 8 == [0x10, 0x20, 0x30, 0x40, 0x01, 0x02, 0x03, 0xF0]) = true ∧
    goes (exec .ftUp (walking 1 0 18 0x100 16 2 2 (twoRows 2)))
      (fun t => t.mem.readBytes 0x108 8 == [0x15, 0x26, 0x37, 0x48, 0x10, 0xA2, 0x34, 0x44]) = true := by decide

/-- F4, F11: Average. -/
theorem test_ft_average :
    goes (exec .ftAverage (walking 0 0 9 0x100 8 2 1 (bytesAt 0 (oneRow 3))))
      (fun t => t.mem.readBytes 0x100 8 == [0x10, 0x20, 0x30, 0x40, 0x09, 0x12, 0x1B, 0x10]) = true ∧
    goes (exec .ftAverage (walking 1 0 18 0x100 16 2 2 (twoRows 3)))
      (fun t => t.mem.readBytes 0x108 8 == [0x0D, 0x16, 0x1F, 0x28, 0x0E, 0x9C, 0x2A, 0x36]) = true := by decide

/-- F5, F12: Paeth. -/
theorem test_ft_paeth :
    goes (exec .ftPaeth (walking 0 0 9 0x100 8 2 1 (bytesAt 0 (oneRow 4))))
      (fun t => t.mem.readBytes 0x100 8 == [0x10, 0x20, 0x30, 0x40, 0x11, 0x22, 0x33, 0x30]) = true ∧
    goes (exec .ftPaeth (walking 1 0 18 0x100 16 2 2 (twoRows 4)))
      (fun t => t.mem.readBytes 0x108 8 == [0x15, 0x26, 0x37, 0x48, 0x14, 0xA6, 0x38, 0x48]) = true := by decide

/-- F14 to F24: the Paeth selection. -/
theorem test_paeth_selection :
    [predPaeth 10 20 10, predPaeth 20 10 10, predPaeth 10 10 20, predPaeth 100 50 200, predPaeth 50 100 200,
      predPaeth 200 100 150, predPaeth 0 0 0, predPaeth 255 255 0, predPaeth 10 40 20, predPaeth 0 15 10,
      predPaeth 0 255 255] = [20, 20, 10, 50, 50, 150, 0, 255, 40, 0, 0] := by decide

/-- F25: the average is half of the exact sum. -/
theorem test_average_exact : reconByte predAverage 200 100 0 0 = 0x96 := by decide

/-- F13, F29: a bad filter byte fails with its offset. -/
theorem test_invalid_filter :
    failsWith (step (walking 1 0 18 0x100 16 2 2 (twoRows 5))) .invalidFilter 9 = true ∧
    failsWith (step (walking 2 0 3 0 0 0 3 (bytesAt 0 [0, 4, 9]))) .invalidFilter 2 = true := by decide

/-! ### Chunk codec -/

/-- CH1: CHK_SCAN of K60. -/
theorem test_chk_scan_ch1 :
    goes (exec .chkScan (accepted 0x21 0 60 0x100 0x40 0 0 0 (bytesAt 0 k60)))
      (fun t => t.mem.readBytes 0x100 36 ==
        [0, 0, 0, 0x08, 0, 0, 0, 0x0D, 0x49, 0x48, 0x44, 0x52, 0, 0, 0, 0x21, 0, 0, 0, 0x03, 0x49, 0x44, 0x41, 0x54,
          0, 0, 0, 0x30, 0, 0, 0, 0, 0x49, 0x45, 0x4E, 0x44] && t.dstLen == 36 && t.chunkCount == 3) = true := by decide

/-- CH7, CH12, CH13, CH16: its errors. -/
theorem test_chk_scan_errors :
    failsWith (exec .chkScan (accepted 0x21 0 60 0x100 0x20 0 0 0 (bytesAt 0 k60))) .dstOverflow 0x24 = true ∧
    failsWith (exec .chkScan (accepted 0x21 0 59 0x100 0x40 0 0 0 (bytesAt 0 k60))) .truncatedChunk 0x30 = true ∧
    failsWith (exec .chkScan (accepted 0x21 0 7 0x100 0x40 0 0 0 (bytesAt 0 k60))) .badSignature 0 = true ∧
    failsWith (exec .chkScan (accepted 0x21 0 20 0x100 0x40 0 0 0
      (bytesAt 0 (sigBytes ++ [0xFF, 0xFF, 0xFF, 0xFF, 0x49, 0x44, 0x41, 0x54, 0, 0, 0, 0])))) .truncatedChunk 8 = true := by
  decide

/-- CH2, X6: CHK_HDR of K60, whatever the destination is. -/
theorem test_chk_hdr_ch2 :
    goes (exec .chkHdr (accepted 0x22 0 60 0xFFFFFFFF 0xFFFFFFFF 7 7 0 (bytesAt 0 k60)))
      (fun t => t.width == 2 && t.height == 1 && t.chunkCount == 3 && t.statusWord == 0x2) = true := by decide

/-- CH18, CH22, X5: its errors. -/
theorem test_chk_hdr_errors :
    failsWith (exec .chkHdr (accepted 0x22 0 8 0 0 0 0 0 (bytesAt 0 sigBytes))) .missingHeader 8 = true ∧
    failsWith (exec .chkHdr (accepted 0x22 0 36 0 0 0 0 0 (bytesAt 0 (sigBytes ++
      [0, 0, 0, 4, 0x49, 0x48, 0x44, 0x52, 0, 0, 0, 2, 0, 0, 0, 0, 0, 0, 0, 0, 0x49, 0x45, 0x4E, 0x44, 0, 0, 0, 0]))))
      .shortField 8 = true ∧
    failsWith (exec .chkHdr (accepted 0x22 4090 60 5000 0 0 0 0 [])) .regionRange 0 = true := by decide

/-- CH3: CHK_IDAT of K60. -/
theorem test_chk_idat_ch3 :
    goes (exec .chkIdat (accepted 0x23 0 60 0x100 0x10 0 0 0 (bytesAt 0 k60)))
      (fun t => t.mem.readBytes 0x100 3 == [0xAA, 0xBB, 0xCC] && t.dstLen == 3 && t.chunkCount == 3) = true := by decide

/-- CH19: no data chunk. -/
theorem test_chk_idat_ch19 :
    failsWith (exec .chkIdat (accepted 0x23 0 8 0 0 0 0 0 (bytesAt 0 sigBytes))) .missingPayload 8 = true := by decide

/-- CH9, CH4, CH21: CHK_PLEN with and without a pad chunk. -/
theorem test_chk_plen_ch9_ch4 :
    goes (exec .chkPlen (accepted 0x24 0 76 0 0 0 0 9 (bytesAt 0 k76)))
      (fun t => t.padLen == 2 && t.chunkCount == 4) = true ∧
    goes (exec .chkPlen (accepted 0x24 0 60 0 0 0 0 9 (bytesAt 0 k60)))
      (fun t => t.padLen == 0 && t.chunkCount == 3) = true := by decide

/-- CH23: a short pad chunk. -/
theorem test_chk_plen_ch23 :
    failsWith (exec .chkPlen (accepted 0x24 0 22 0 0 0 0 0
      (bytesAt 0 (sigBytes ++ [0, 0, 0, 2, 0x70, 0x6C, 0x45, 0x4E, 0, 1, 0, 0, 0, 0])))) .shortField 8 = true := by decide

/-- CH5: CHK_INSPAD of K60 gives K76. -/
theorem test_chk_inspad_ch5 :
    goes (exec .chkInspad (accepted 0x25 0 60 0x100 0x80 0 0 2 (bytesAt 0 k60)))
      (fun t => t.mem.readBytes 0x100 76 == k76 && t.dstLen == 76 && t.chunkCount == 3 && t.padLen == 2) = true := by decide

/-- CH6, CH20: its errors. -/
theorem test_chk_inspad_errors :
    failsWith (exec .chkInspad (accepted 0x25 0 60 0x100 75 0 0 2 (bytesAt 0 k60))) .dstOverflow 0x4C = true ∧
    failsWith (exec .chkInspad (accepted 0x25 0 8 0x100 75 0 0 2 (bytesAt 0 sigBytes))) .missingEndMarker 8 = true := by decide

/-! ### The host port -/

/-- P3, R53: the word 0x474E5089 at 0x000 stores 89 50 4E 47, and reads back. -/
theorem test_lane_order :
    ((machine []).hostAccess (hostSW 0 0x474E5089)).mem.readBytes 0 4 = [0x89, 0x50, 0x4E, 0x47] ∧
    ((machine (bytesAt 0 [0x89, 0x50, 0x4E, 0x47])).hostAccess (hostLW 0)).responses = [.data 0x474E5089] := by decide

/-- P4 (d), outcome 1: a write of SRC_LEN during BUSY is dropped and OVR is set. -/
theorem test_write_during_busy :
    ((accepted 0x11 0x300 9 0x400 16 2 1 0 []).hostAccess (hostWR .srcLen 0)).srcLen = 9 ∧
    ((accepted 0x11 0x300 9 0x400 16 2 1 0 []).hostAccess (hostWR .srcLen 0)).statusWord = 0x9 := by decide

/-- X9: CLR keeps ERR_CODE and ERR_INFO and lowers IRQ. -/
theorem test_clear_status :
    let s := State.fail { accepted 0x100 0 0 0 0 0 0 0 [] with irqEn := true } ⟨.illegalCommand, 0x100⟩
    let t := s.hostAccess (hostWR .status 0xE)
    s.irq = true ∧ t.irq = false ∧ t.statusWord = 0 ∧ t.errCode = .illegalCommand ∧ t.errInfo = 0x100 := by decide

/-- P5: the soft reset during a command. -/
theorem test_soft_reset :
    let t := (accepted 1 0 3 0x100 4 0 0 0 (bytesAt 0 [0x41, 0x42, 0x43])).hostAccess (hostWR .ctrl 2)
    t.ctrlWord = 0 ∧ t.statusWord = 0 ∧ t.cmd = 0 ∧ t.srcLen = 0 ∧ t.memSize = 4096 ∧
    t.mem.readBytes 0 3 = [0x41, 0x42, 0x43] := by decide

/-- P1's first command through the machine's own steps: the host's WR CMD at once, then the sequencer. -/
theorem test_host_runs_command :
    goes (Host.Core.run core 2
      { machine (bytesAt 0 [0x41, 0x42, 0x43]) with srcLen := 3, dstAddr := 0x100, dstCap := 4, host := atOnce (hostCMD .mapB2g) })
      (fun t => t.statusWord == 0x2 && t.mem.readBytes 0x100 4 == [0x41, 0x42, 0x43, 0xFF]) = true := by decide

/-- A machine whose MAP_B2G of "ABC" to 0x100 has completed, which the host has not observed. -/
def unobserved : State :=
  let s := accepted 1 0 3 0x100 4 7 0 0 (bytesAt 0 [0x41, 0x42, 0x43])
  { State.retire s with
    width := 1, height := 1, padLen := 0, dstLen := 4, irqEn := true,
    mem := s.mem.writeBytes 0x100 [0x41, 0x42, 0x43, 0xFF] }

/-- R60, R225: before the host has observed BUSY = 0, WIDTH reads its old value 7, DST_LEN 0, and a byte of the destination
region is a draw; a byte outside it reads as it stands. After a STATUS read or the interrupt everything reads as it stands. -/
theorem test_observation :
    (unobserved.hostAccess (hostRD .width)).responses = [.data 7] ∧
    (unobserved.hostAccess (hostRD .dstLen)).responses = [.data 0] ∧
    (unobserved.hostAccess (hostLB 0x103)).draws = 1 ∧ (unobserved.hostAccess (hostLW 0x100)).draws = 4 ∧
    (unobserved.hostAccess (hostLB 2)).responses = [.data 0x43] ∧
    (let t := unobserved.hostAccess (hostRD .status)
     t.responses = [.data 2] ∧ t.readReg (some .width) = 1 ∧ t.readReg (some .dstLen) = 4 ∧
       (t.hostAccess (hostLW 0x100)).responses = [.data 0xFF434241, .data 2]) ∧
    (let t := unobserved.hostEvent .interrupt
     t.readReg (some .width) = 1 ∧ (t.hostAccess (hostLB 0x103)).responses = [.data 0xFF]) := by decide

/-- R69: WIDTH reads as the host has written it, observed or not; a soft reset makes every register read its reset value (R222)
and is no observation; a buffer byte reads as the host has written it. -/
theorem test_observation_writes :
    ((unobserved.hostAccess (hostWR .width 9)).readReg (some .width)) = 9 ∧
    ((unobserved.hostAccess (hostWR .width 9)).readReg (some .dstLen)) = 0 ∧
    ((unobserved.hostAccess (hostWR .ctrl 2)).readReg (some .width)) = 0 ∧
    (unobserved.hostAccess (hostWR .ctrl 2)).hidden 0x103 = true ∧
    (let t := (unobserved.hostAccess (hostWR .ctrl 2)).hostAccess (hostSB 0x102 0x5A)
     (t.hostAccess (hostLB 0x102)).answer = .data 0x5A ∧ t.hidden 0x101 = true ∧ t.hidden 0x103 = true) := by decide

/-- R69, R223: after an abort the host reads what it has written; the rest of the region is free, but the memory holds it. -/
theorem test_abort_then_write :
    let t := (((accepted 1 0 3 0x100 4 0 0 0 []).hostAccess (hostWR .ctrl 2)).hostAccess (hostSB 0x100 7))
    (t.hostAccess (hostLB 0x100)).answer = .data 7 ∧ t.unseen = [] := by decide

/-- R42: the next access after an acceptance, a read, observes BUSY = 1 although its turn is said to come three sequencer steps
later. P4 (d): a write of SRC_LEN may find BUSY = 1 (outcome 1) or the command completed (outcome 2). -/
theorem test_next_access :
    (let s := { accepted 1 0 3 0x100 4 0 0 0 (bytesAt 0 [0x41, 0x42, 0x43]) with host := [⟨3, .access (hostRD .status)⟩] }
     goes (step s) (fun t => t.responses == [.data 1] && t.busy) = true) ∧
    (let s := { accepted 1 0 3 0x100 4 0 0 0 (bytesAt 0 [0x41, 0x42, 0x43]) with host := [⟨0, .access (hostWR .srcLen 0)⟩] }
     goes (step s) (fun t => t.srcLen == 3 && t.statusWord == 0x9) = true) ∧
    (let s := { accepted 1 0 3 0x100 4 0 0 0 (bytesAt 0 [0x41, 0x42, 0x43]) with host := [⟨3, .access (hostWR .srcLen 0)⟩] }
     goes (Host.Core.run core 2 s) (fun t => t.srcLen == 0 && t.statusWord == 0x2) = true) := by decide

/-- R6: the parse reads whatever signature and tags it is given: SIG-only containers of two formats. -/
theorem test_other_format :
    let f : ContainerFormat := { Config.format with sig := [1, 2, 3, 4, 5, 6, 7, 8], tagHdr := [0x48, 0x45, 0x41, 0x44] }
    f.wellFormed = true ∧ parse f [1, 2, 3, 4, 5, 6, 7, 8] = .ok [] ∧ parse f sigBytes = .error ⟨.badSignature, 0⟩ ∧
    firstChunk k60Chunks f.tagHdr = none := by decide +kernel

/-! ### Host programs -/

/-- What each event of a finished run was. -/
def events {α : Type} (r : Option (HostRun α)) : List HostEvent := (r.map (fun x => x.trace.map (fun p => p.2))).getD []

/-- R90: RUN polls STATUS until BUSY = 0: after an acceptance seen twice with BUSY = 1, the third poll ends the wait with
STATUS 2; with no sequencer step the wait never ends; the first poll observes BUSY = 1 whatever the schedule (R42). -/
theorem test_run_waits :
    let s := { machine (bytesAt 0 [0x41, 0x42, 0x43]) with srcLen := 3, dstAddr := 0x100, dstCap := 4 }
    let p : HostProgram Word := hostRUN .mapB2g (fun v => .done v)
    (p.run [0, 0, 0, 1] s).map (fun r => r.result) = some 2 ∧
    events (p.run [0, 0, 0, 1] s) = [.access (hostWR .cmd 1), .access (hostRD .status), .access (hostRD .status),
      .access (hostRD .status)] ∧
    ((p.run [0, 0, 0, 0] s).map (fun r => r.result)) = none ∧
    events (p.run [0, 5, 1] s) = [.access (hostWR .cmd 1), .access (hostRD .status), .access (hostRD .status)] := by
  decide +kernel

/-- R199, X8: with IRQ_EN the host can wait for the interrupt. -/
theorem test_interrupt_wait :
    let s := { machine (bytesAt 0 [0x41, 0x42, 0x43]) with srcLen := 3, dstAddr := 0x100, dstCap := 4, irqEn := true }
    events ((hostDo (hostCMD .mapB2g) (.interrupt (.done ()))).run [0, 0, 1] s) =
      [.access (hostWR .cmd 1), .interrupt] := by decide +kernel

/-- E1's payload "ABCDEF". -/
def e1Payload : List Byte := [0x41, 0x42, 0x43, 0x44, 0x45, 0x46]

/-- An encoder for grids of one row: the row as one scanline of filter None, not compressed, in a container like K60 (R183). -/
def oneRowEncoder (_ _ : Nat) (grid : List Byte) : List Byte :=
  k60.take 33 ++ bytesBe32 (BitVec.ofNat 32 (grid.length + 1)) ++ [0x49, 0x44, 0x41, 0x54] ++ (0 :: grid) ++
    [0, 0, 0, 0] ++ k60.drop 48

/-- The pack sequence on E1's payload. -/
def e1Pack : HostProgram (Except Word (List Byte)) := packProgram oneRowEncoder e1Payload 0 0x20 0x20 0x40 0x100 0x80

/-- The unpack sequence in an order of its steps 2 to 4. -/
def e1Unpack (order : List Instr) (container : List Byte) : HostProgram (Except Word (List Byte)) :=
  unpackProgram some order container 0x200 0x300 0x20 0x400 0x500 0x20 0x600 0x20

/-- R181, R184: the pack sequence keeps the host's duties, PAD_LEN being handed from MAP_B2G (event 10) to CHK_INSPAD (event
94). -/
theorem test_pack_sequence :
    ((e1Pack.run (List.replicate 200 3) (machine [])).map
      (fun r => (keepsDuties r.trace [⟨10, 94, .padLen⟩], r.final.dstLen, r.final.padLen))) = some (true, 82, 0) := by
  decide +kernel

/-- R182, R185: the unpack sequence of the packed container returns the payload, and keeps the host's duties, WIDTH
and HEIGHT being handed from CHK_HDR (event 86) to FLT_RECON (125), PAD_LEN from CHK_PLEN (90) to MAP_G2B (135). -/
theorem test_unpack_sequence :
    (e1Pack.run (List.replicate 200 3) (machine [])).bind (fun r =>
      match r.result with
      | .ok container =>
        ((e1Unpack unpackOrder container).run (List.replicate 200 3) r.final).map
          (fun q => (q.result.toOption,
            keepsDuties q.trace [⟨86, 125, .width⟩, ⟨86, 125, .height⟩, ⟨90, 135, .padLen⟩]))
      | .error _ => none) = some (some e1Payload, true) := by decide +kernel

/-- R182: steps 2 to 4 in another order; a container that is cut short ends the unpack with the error TRUNCATED_CHUNK. -/
theorem test_unpack_order_and_error :
    ((e1Unpack [.chkIdat, .chkPlen, .chkHdr] (oneRowEncoder 2 1 [0x41, 0x42, 0x43, 0xFF, 0x44, 0x45, 0x46, 0xFF])).run
      (List.replicate 200 3) (machine [])).bind (fun q => q.result.toOption) = some e1Payload ∧
    ((e1Unpack unpackOrder (k60.take 59)).run (List.replicate 200 3) (machine [])).map
      (fun q => match q.result with
        | .ok _ => 0
        | .error code => code) = some 2 := by decide +kernel

/-- R184: duties that are broken: a result read before BUSY = 0 has been observed; the next command issued before the outcome
was read; overlapping regions; PAD_LEN overwritten between MAP_B2G and CHK_INSPAD. -/
theorem test_broken_duties :
    (⟨false, false⟩ : Watch).allows unobserved (hostRD .dstLen) = false ∧
    (⟨false, false⟩ : Watch).allows unobserved (hostLB 0x103) = false ∧ Watch.settled.allows beforeF12 (hostLB 0) = false ∧
    (⟨false, false⟩ : Watch).allows unobserved (hostRD .status) = true ∧
    (⟨true, false⟩ : Watch).allows (machine []) (hostWR .cmd 1) = false ∧
    Watch.settled.allows { machine [] with srcLen := 7, dstAddr := 6, dstCap := 4 } (hostWR .cmd 1) = false ∧
    HandOver.kept ⟨0, 2, .padLen⟩ [(machine [], .access (hostWR .cmd 1)), (machine [], .access (hostWR .padLen 9)),
      ({ machine [] with padLen := 9 }, .access (hostWR .cmd 0x25))] = false := by decide

/-- R184: the liberties. -/
theorem test_liberties :
    beforeF12.liberty (hostWR .srcLen 0) = some .writeDuringBusy ∧ beforeF12.liberty (hostLB 0) = some .readBufferDuringBusy ∧
    beforeF12.liberty (hostWR .ctrl 2) = some .abort ∧ (machine []).liberty (hostWR .status 2) = some .clearStatus := by decide

/-! ### Witnesses: each statement's hypotheses can be met, clause by clause -/

/-- K60 as the source of a command with these operands. -/
def onK60 (w sl dc pad : Word) : State := accepted w 0 sl 0x100 dc 0 0 pad (bytesAt 0 k60)

/-- The container with one chunk of 2 pad bytes, CH23, and the one with a 4-byte header chunk, CH22. -/
def shortPad : List Byte := sigBytes ++ [0, 0, 0, 2, 0x70, 0x6C, 0x45, 0x4E, 0, 1, 0, 0, 0, 0]

/-- CH22's container without its end marker. -/
def shortHdr : List Byte := sigBytes ++ [0, 0, 0, 4, 0x49, 0x48, 0x44, 0x52, 0, 0, 0, 2, 0, 0, 0, 0]

/-- A host transaction that waits. -/
def waits (n : Nat) : Pending := ⟨n, .access (hostRD .status)⟩

theorem witness_EncodingsDecodeExactly :
    decodeCommand 0x25 = .ok .chkInspad ∧ (∀ i : Instr, encode i ≠ .command 0x26) ∧
    (∀ i : Instr, encode i ≠ .command 0x00000100) ∧ decodeFilter 4 = .ok .ftPaeth ∧
    5 ≤ (5 : Byte).toNat ∧ 5 ≤ (255 : Byte).toNat := by
  refine ⟨rfl, ?_, ?_, rfl, by decide, by decide⟩ <;> intro i <;> cases i <;> decide

theorem witness_StepRunsDecodedInstruction :
    (let s := onK60 0x24 60 0 0
     s.turn = .sequencer ∧ s.phase = .command ∧ decodeCommand s.latch.word = .ok .chkPlen) ∧
    (let s := walking 1 0 18 0x100 16 2 2 (twoRows 4)
     s.turn = .sequencer ∧ s.phase = .rows ∧ s.row < s.latch.height.toNat ∧
       decodeFilter (s.mem.read (s.latch.srcAddr.toNat + s.row * (1 + 4 * s.latch.width.toNat))) = .ok .ftPaeth) ∧
    { beforeF12 with host := [waits 1], justAccepted := false }.turn = .sequencer ∧ (machine []).host = [] ∧
    { beforeF12 with host := [waits 1] }.host = waits 1 :: [] ∧
    { beforeF12 with host := [⟨1, .access (hostWR .ctrl 2)⟩] }.turn = .sequencer ∧
    { beforeF12 with host := [⟨1, .interrupt⟩], irqEn := true }.turn = .sequencer ∧
    { beforeF12 with host := [waits 1] }.turn ≠ .sequencer ∧
    { beforeF12 with host := [⟨1, .interrupt⟩] }.turn ≠ .sequencer :=
  ⟨⟨by decide, by decide, rfl⟩, ⟨by decide, by decide, by decide, rfl⟩, by decide, rfl, rfl, by decide, by decide, by decide,
    by decide⟩

theorem witness_StepMakesHostTransaction :
    (let s := { machine [] with host := [waits 3] }
     s.host = waits 3 :: [] ∧ s.phase = .idle) ∧
    (let s := { beforeF12 with host := [waits 0] }
     s.host = waits 0 :: [] ∧ s.phase ≠ .idle ∧ (waits 0).after = 0) ∧
    (let s := { beforeF12 with host := [waits 3] }
     s.justAccepted = true ∧ (hostRD .status).dir = .read ∧ s.host = ⟨3, .access (hostRD .status)⟩ :: [] ∧ s.inv = true) ∧
    (machine []).host = [] ∧ (machine []).phase = .idle ∧ unobserved.irq = true ∧ (machine []).irq = false := by decide

theorem witness_IllegalWordFails :
    let s := accepted 0x00000012 0 0 0 0 0 0 0 []
    s.turn = .sequencer ∧ s.phase = .command ∧ ∀ i : Instr, encode i ≠ .command s.latch.word := by
  refine ⟨by decide, by decide, ?_⟩
  intro i
  cases i <;> decide

theorem witness_InvalidFilterByteFails :
    (let s := walking 1 0 18 0x100 16 2 2 (twoRows 5)
     s.turn = .sequencer ∧ s.phase = .rows ∧ s.row < s.latch.height.toNat ∧
       5 ≤ (s.mem.read (s.latch.srcAddr.toNat + s.row * (1 + 4 * s.latch.width.toNat))).toNat) ∧
    (let s := walking 0 0 9 0x100 8 2 1 (bytesAt 0 (oneRow 255))
     s.turn = .sequencer ∧ s.phase = .rows ∧ s.row < s.latch.height.toNat ∧
       5 ≤ (s.mem.read (s.latch.srcAddr.toNat + s.row * (1 + 4 * s.latch.width.toNat))).toNat) := by decide

theorem witness_RowWalkCompletes :
    (let s := walking 0 0 0 0 0 5 0 []
     s.turn = .sequencer ∧ s.phase = .rows ∧ s.latch.height.toNat ≤ s.row) ∧
    (let s := walking 2 0 18 0x100 16 2 2 (twoRows 4)
     s.turn = .sequencer ∧ s.phase = .rows ∧ s.latch.height.toNat ≤ s.row) := by decide

theorem witness_AcceptanceStep :
    (machine []).phase = .idle ∧ (0x25 : Word) ∈ [0x01, 0x02, 0x11, 0x21, 0x23, (0x25 : Word)] ∧
    ¬ (0x22 : Word) ∈ [0x01, 0x02, 0x11, 0x21, 0x23, (0x25 : Word)] := by decide

theorem witness_OperandWritesWhileIdle : (machine (bytesAt 0 k60)).phase = .idle ∧ (1 : Word).getLsbD 1 = false := by decide

theorem witness_RegisterReads :
    (0x40 : BitVec 8).toNat % 4 = 0 ∧ (0xFC : BitVec 8).toNat % 4 = 0 ∧ (0x10 : BitVec 8) ≠ 0x14 ∧ (0x18 : BitVec 8) ≠ 0x14 ∧
    unobserved.phase = .idle ∧ unobserved.done = true ∧ beforeF12.phase ≠ .idle ∧ beforeF12.done = false := by decide

theorem witness_ReservedAndReadOnly :
    (0x44 : BitVec 8).toNat % 4 = 0 ∧ 0x44 ≤ (0x44 : BitVec 8).toNat ∧
    (0xFC : BitVec 8).toNat % 4 = 0 ∧ 0x44 ≤ (0xFC : BitVec 8).toNat ∧
    (0x40 : BitVec 8).toNat % 4 = 0 ∧
    (0x40 : BitVec 8) ∈ [0x00, 0x04, 0x08, 0x18, 0x1C, 0x30, (0x40 : BitVec 8)] := by decide

theorem witness_HostAccessWhileBusy :
    let s := beforeF12
    s.phase ≠ .idle ∧ s.inv = true ∧ s.done = false ∧ (0x14 : BitVec 8).toNat % 4 = 0 ∧ (0x40 : BitVec 8).toNat % 4 = 0 ∧ (0x1 : Word).getLsbD 1 = false ∧ (0x2 : Word).getLsbD 1 = true ∧
    (0x3C : BitVec 8) ∈ [0x10, 0x20, 0x24, 0x28, 0x2C, 0x34, 0x38, (0x3C : BitVec 8)] ∧
    (0x44 : BitVec 8).toNat % 4 = 0 ∧ 0x44 ≤ (0x44 : BitVec 8).toNat ∧
    4095 < s.memSize.toNat ∧ 4092 % 4 = 0 ∧ 4092 + 4 ≤ s.memSize.toNat := by decide

theorem witness_BusErrors :
    let s := machine []
    s.memSize.toNat ≤ 4096 ∧ 2 % 4 ≠ 0 ∧ s.memSize.toNat < 4096 + 4 ∧ 4095 < s.memSize.toNat ∧ 4092 % 4 = 0 ∧
    4092 + 4 ≤ s.memSize.toNat ∧ Width.w8 ≠ .w32 ∧ (0x21 : BitVec 8).toNat % 4 ≠ 0 ∧
    (0xFC : BitVec 8).toNat % 4 = 0 := by decide

theorem witness_BufferReadsAndWrites :
    let s := machine []
    s.phase = .idle ∧ 0 < s.memSize.toNat ∧ 4095 < s.memSize.toNat ∧ 4092 % 4 = 0 ∧ 4092 + 4 ≤ s.memSize.toNat := by
  decide

/-- The destination region [0x100, 0x104) not observed yet: its first and last byte, and the bytes beside it. -/
theorem witness_BufferReadsAndWrites_unobserved :
    let anyValue : Nat → Prop := fun x => ∃ g ∈ unobserved.unseen, g.addr ≤ x ∧ x < g.addr + g.len
    unobserved.phase = .idle ∧ 0x104 < unobserved.memSize.toNat ∧ anyValue 0x100 ∧ anyValue 0x103 ∧
    ¬ anyValue 0xFF ∧ ¬ anyValue 0x104 := by decide

/-- A busy machine of whatever size the buffer memory has. -/
theorem witness_SoftResetRegisters :
    let s := { State.reset with dstCap := 1, irqEn := true }.accept 0x00000001
    s.inv = true ∧ s.memSize = BitVec.ofNat 32 Config.memBytes ∧ (0x2 : Word).getLsbD 1 = true := by
  refine ⟨?_, rfl, by decide⟩
  have h := Config_memBytes_bounds
  have hm : (BitVec.ofNat 32 Config.memBytes).toNat = Config.memBytes := by
    rw [BitVec.toNat_ofNat]; omega
  have h1 : (State.accept { State.reset with dstCap := 1, irqEn := true } 0x00000001).memoryOk = true := by
    show (true && decide (16 ≤ (BitVec.ofNat 32 Config.memBytes).toNat) &&
      decide ((BitVec.ofNat 32 Config.memBytes).toNat ≤ 2 ^ 31)) = true
    rw [hm]
    simp only [Bool.true_and, Bool.and_eq_true, decide_eq_true_eq]
    exact h
  unfold State.inv
  rw [h1]
  decide

theorem witness_SoftResetAborts :
    beforeF12.phase ≠ .idle ∧ (0x2 : Word).getLsbD 1 = true ∧
    beforeF12.latch.dstAddr.toNat + beforeF12.latch.dstCap.toNat ≤ 0x110 ∧
    0xFF < beforeF12.latch.dstAddr.toNat ∧ (onK60 0x22 60 16 0).phase ≠ .idle ∧
    decodeCommand (onK60 0x22 60 16 0).latch.word = .ok .chkHdr ∧
    decodeCommand (onK60 0x24 60 16 0).latch.word = .ok .chkPlen :=
  ⟨by decide, by decide, by decide, by decide, by decide, rfl, rfl⟩

theorem witness_InterruptLevel :
    (0x2 : Word).getLsbD 1 = true ∧ (0x0 : Word).getLsbD 0 = false ∧ (machine []).phase = .idle := by decide

theorem witness_DutifulHostNeverOverruns :
    Watch.settled.allows (machine []) (hostSB 4095 7) = true ∧ Watch.settled.allows (machine []) (hostWR .cmd 1) = true ∧
    (⟨false, false⟩ : Watch).allows beforeF12 (hostRD .status) = true ∧
    (⟨false, false⟩ : Watch).allows beforeF12 (hostWR .ctrl 1) = true ∧ (1 : Word).getLsbD 1 = false ∧
    (⟨false, false⟩ : Watch).allows beforeF12 (hostWR .status 0xE) = true ∧
    (⟨false, false⟩ : Watch).allows beforeF12 (hostWR .ctrl 2) = true ∧
    (⟨false, false⟩ : Watch).allows unobserved (hostLB 0x104) = true := by decide

theorem witness_RegionRangeChecks :
    (let s := accepted 0x22 4090 7 5000 0 0 0 0 []
     s.latch.srcLen.toNat ≠ 0 ∧ s.memSize.toNat < s.latch.srcAddr.toNat + s.latch.srcLen.toNat) ∧
    (let s := accepted 1 4089 7 4090 7 0 0 0 []
     s.latch.srcAddr.toNat + s.latch.srcLen.toNat ≤ s.memSize.toNat ∧ s.latch.dstCap.toNat ≠ 0 ∧
       s.memSize.toNat < s.latch.dstAddr.toNat + s.latch.dstCap.toNat) ∧
    (let s := accepted 0x23 5000 0 0xFFFFFFFF 0xFFFFFFFF 0 0 0 []
     s.latch.srcLen.toNat = 0 ∧ s.latch.dstCap.toNat ≠ 0 ∧
       s.memSize.toNat < s.latch.dstAddr.toNat + s.latch.dstCap.toNat) := by decide

theorem witness_RegionOverlapCheck :
    let s := accepted 1 0 7 6 0x40 0 0 0 []
    s.latch.srcAddr.toNat + s.latch.srcLen.toNat ≤ s.memSize.toNat ∧
    s.latch.dstAddr.toNat + s.latch.dstCap.toNat ≤ s.memSize.toNat ∧
    0 < s.latch.srcLen.toNat ∧ 0 < s.latch.dstCap.toNat ∧
    s.latch.srcAddr.toNat < s.latch.dstAddr.toNat + s.latch.dstCap.toNat ∧
    s.latch.dstAddr.toNat < s.latch.srcAddr.toNat + s.latch.srcLen.toNat := by decide

/-- M28: adjacent regions, and a grid that fits exactly. -/
theorem witness_MapB2gPacks :
    (let s := accepted 1 0 7 7 0x40 0 0 0 []
     let h := (s.latch.srcLen.toNat + 2) / 3 / s.maxDim.toNat + 1
     s.regionsOk = true ∧ max 1 (((s.latch.srcLen.toNat + 2) / 3 + h - 1) / h) * h * 4 ≤ s.latch.dstCap.toNat) ∧
    (let s := accepted 1 0 7 7 12 0 0 0 []
     let h := (s.latch.srcLen.toNat + 2) / 3 / s.maxDim.toNat + 1
     s.regionsOk = true ∧ max 1 (((s.latch.srcLen.toNat + 2) / 3 + h - 1) / h) * h * 4 = s.latch.dstCap.toNat) := by decide

theorem witness_MapperOverflows :
    (let s := accepted 1 0 7 7 11 0 0 0 []
     let h := (s.latch.srcLen.toNat + 2) / 3 / s.maxDim.toNat + 1
     s.regionsOk = true ∧ s.latch.dstCap.toNat < max 1 (((s.latch.srcLen.toNat + 2) / 3 + h - 1) / h) * h * 4) ∧
    (let s := accepted 2 0 8 0x100 5 0 0 0 []
     let u := s.latch.srcLen.toNat - s.latch.padLen.toNat
     s.regionsOk = true ∧ s.latch.padLen.toNat ≤ s.latch.srcLen.toNat ∧
       s.latch.dstCap.toNat < 3 * (u / 4) + u % 4) := by decide

theorem witness_GridDimensions :
    unitWidth 1 ≠ 0 ∧ unitWidth 0 = 0 ∧ 1 ≤ unitWidth 98302 ∧ 98302 ≤ 98304 ∧ 0 < Config.maxDim := by decide

theorem witness_PadLengthFormula : 0 < Config.maxDim ∧ 6 % 3 = 0 ∧ 7 % 3 = 1 ∧ 8 % 3 = 2 := by decide

/-- M29, with the capacity at its bound. -/
theorem witness_EmptyInputPacks :
    let s := accepted 1 4096 0 0 4 0 0 0 []
    s.regionsOk = true ∧ s.latch.srcLen = 0 ∧ s.maxDim ≠ 0 ∧ 4 ≤ s.latch.dstCap.toNat ∧ 1 ≤ unitWidth 1 := by decide

/-- M20, and M21 where nothing is left. -/
theorem witness_MapG2bUnpacks :
    (let s := accepted 2 0 8 0x100 6 0 0 1 []
     let u := s.latch.srcLen.toNat - s.latch.padLen.toNat
     s.regionsOk = true ∧ s.latch.padLen.toNat ≤ s.latch.srcLen.toNat ∧ 3 * (u / 4) + u % 4 ≤ s.latch.dstCap.toNat) ∧
    (let s := accepted 2 0 8 0x100 0 0 0 8 []
     let u := s.latch.srcLen.toNat - s.latch.padLen.toNat
     s.regionsOk = true ∧ s.latch.padLen.toNat ≤ s.latch.srcLen.toNat ∧ 3 * (u / 4) + u % 4 ≤ s.latch.dstCap.toNat) := by
  decide

/-- M22. -/
theorem witness_BadPadLengthFails :
    let s := accepted 2 0 8 0x100 16 0 0 9 []
    s.regionsOk = true ∧ s.latch.srcLen.toNat < s.latch.padLen.toNat := by decide

theorem witness_MapperRoundTrip : 0 < Config.maxDim ∧ 5 < ([0x41, 0x42, 0x43, 0x44, 0x45, 0x46] : List Byte).length := by
  decide

theorem witness_FltReconStarts :
    (let s := beforeF12
     s.regionsOk = true ∧ s.latch.height.toNat * (1 + 4 * s.latch.width.toNat) ≤ s.latch.srcLen.toNat ∧
       4 * s.latch.width.toNat * s.latch.height.toNat ≤ s.latch.dstCap.toNat) ∧
    (let s := accepted 0x11 0 0 0 0 5 0 0 []
     s.regionsOk = true ∧ s.latch.height.toNat * (1 + 4 * s.latch.width.toNat) ≤ s.latch.srcLen.toNat ∧
       4 * s.latch.width.toNat * s.latch.height.toNat ≤ s.latch.dstCap.toNat) := by decide

/-- F26, F27. -/
theorem witness_FltReconSizeErrors :
    (let s := accepted 0x11 0 17 0x100 16 2 2 0 []
     s.regionsOk = true ∧ s.latch.srcLen.toNat < s.latch.height.toNat * (1 + 4 * s.latch.width.toNat)) ∧
    (let s := accepted 0x11 0 18 0x100 15 2 2 0 []
     s.regionsOk = true ∧ s.latch.height.toNat * (1 + 4 * s.latch.width.toNat) ≤ s.latch.srcLen.toNat ∧
       s.latch.dstCap.toNat < 4 * s.latch.width.toNat * s.latch.height.toNat) := by decide

theorem witness_FilterNoneRow : (walking 1 0 18 0x100 16 2 2 (twoRows 0)).rowInMemory = true := by decide

theorem witness_FilterSubRow : (walking 1 0 18 0x100 16 2 2 (twoRows 1)).rowInMemory = true := by decide

theorem witness_FilterUpRow : (walking 1 0 18 0x100 16 2 2 (twoRows 2)).rowInMemory = true := by decide

theorem witness_FilterAverageRow : (walking 1 0 18 0x100 16 2 2 (twoRows 3)).rowInMemory = true := by decide

theorem witness_FilterPaethRow : (walking 1 0 18 0x100 16 2 2 (twoRows 4)).rowInMemory = true := by decide

/-- F12, which succeeds, and F13, which fails. -/
theorem witness_ReconstructionIsItsFunction :
    (let s := beforeF12
     s.inv = true ∧ s.phase = .command ∧ s.latch.word = 0x00000011 ∧ s.host = [] ∧
       fltCheck s.memSize.toNat s.latch = none ∧
       (reconAll 2 2 (s.mem.readBytes 0 18)).isOk = true) ∧
    (let s := accepted 0x11 0 18 0x100 16 2 2 0 (twoRows 5)
     s.inv = true ∧ s.phase = .command ∧ s.latch.word = 0x00000011 ∧ s.host = [] ∧
       fltCheck s.memSize.toNat s.latch = none ∧
       (reconAll 2 2 (s.mem.readBytes 0 18)).isOk = false) := by decide

theorem witness_ParseTilesContainer : parse Config.format k60 = .ok k60Chunks ∧ parse Config.format sigBytes = .ok [] := ⟨by decide +kernel, by decide +kernel⟩

/-- CH12, CH13, CH14. -/
theorem witness_ParseFailures :
    parse Config.format (k60.take 59) = .error ⟨.truncatedChunk, 0x30⟩ ∧ parse Config.format (k60.take 7) = .error ⟨.badSignature, 0⟩ ∧
    parse Config.format (0x88 :: k60.drop 1) = .error ⟨.badSignature, 0⟩ := ⟨by decide +kernel, by decide +kernel, by decide +kernel⟩

theorem witness_ChunkCommandsParseFirst :
    (let s := onK60 0x25 59 0x60 0
     parse Config.format (s.mem.readBytes s.latch.srcAddr.toNat s.latch.srcLen.toNat) = .error ⟨.truncatedChunk, 0x30⟩ ∧
       s.regionsOk = true) ∧
    (let s := accepted 0x22 0 59 0xFFFFFFFF 0xFFFFFFFF 0 0 0 (bytesAt 0 k60)
     parse Config.format (s.mem.readBytes s.latch.srcAddr.toNat s.latch.srcLen.toNat) = .error ⟨.truncatedChunk, 0x30⟩ ∧
       s.latch.srcInRange s.memSize.toNat = true) := ⟨⟨by decide +kernel, by decide⟩, ⟨by decide +kernel, by decide⟩⟩

theorem witness_ChkScanDescribes :
    (let s := onK60 0x21 60 36 0
     s.regionsOk = true ∧ parse Config.format (s.mem.readBytes s.latch.srcAddr.toNat s.latch.srcLen.toNat) = .ok k60Chunks ∧
       12 * k60Chunks.length ≤ s.latch.dstCap.toNat) ∧
    (let s := onK60 0x21 60 35 0
     s.regionsOk = true ∧ parse Config.format (s.mem.readBytes s.latch.srcAddr.toNat s.latch.srcLen.toNat) = .ok k60Chunks ∧
       s.latch.dstCap.toNat < 12 * k60Chunks.length) := ⟨⟨by decide, by decide +kernel, by decide⟩, ⟨by decide, by decide +kernel, by decide⟩⟩

theorem witness_ChkHdrExtracts :
    let s := accepted 0x22 0 60 0xFFFFFFFF 0xFFFFFFFF 0 0 0 (bytesAt 0 k60)
    let e : Chunk := ⟨8, 13, [0x49, 0x48, 0x44, 0x52]⟩
    s.latch.srcInRange s.memSize.toNat = true ∧
    parse Config.format (s.mem.readBytes s.latch.srcAddr.toNat s.latch.srcLen.toNat) = .ok k60Chunks ∧
    k60Chunks.find? (fun e => e.tag == Config.format.tagHdr) = some e ∧ 8 ≤ e.length := ⟨by decide, by decide +kernel, by decide, by decide⟩

theorem witness_ChkIdatConcatenates :
    let s := onK60 0x23 60 3 0
    let dat := k60Chunks.filter (fun e => e.tag == Config.format.tagDat)
    s.regionsOk = true ∧ parse Config.format (s.mem.readBytes s.latch.srcAddr.toNat s.latch.srcLen.toNat) = .ok k60Chunks ∧
    dat ≠ [] ∧ (dat.map (fun e => e.length)).sum ≤ s.latch.dstCap.toNat := ⟨by decide, by decide +kernel, by decide, by decide⟩

theorem witness_ChkPlenReads :
    (let s := accepted 0x24 0 60 0xFFFFFFFF 0xFFFFFFFF 0 0 0 (bytesAt 0 k60)
     s.latch.srcInRange s.memSize.toNat = true ∧
       parse Config.format (s.mem.readBytes s.latch.srcAddr.toNat s.latch.srcLen.toNat) = .ok k60Chunks ∧
       k60Chunks.find? (fun e => e.tag == Config.format.tagPad) = none) ∧
    (let s := accepted 0x24 0 76 0 0 0 0 0 (bytesAt 0 k76)
     let cs := k60Chunks.take 2 ++ [⟨48, 4, Config.format.tagPad⟩, ⟨64, 0, Config.format.tagEnd⟩]
     s.latch.srcInRange s.memSize.toNat = true ∧
       parse Config.format (s.mem.readBytes s.latch.srcAddr.toNat s.latch.srcLen.toNat) = .ok cs ∧
       cs.find? (fun e => e.tag == Config.format.tagPad) = some ⟨48, 4, Config.format.tagPad⟩) :=
  ⟨⟨by decide, by decide +kernel, by decide⟩, ⟨by decide, by decide +kernel, by decide⟩⟩

theorem witness_ChkInspadInserts :
    let s := onK60 0x25 60 76 2
    let e : Chunk := ⟨48, 0, [0x49, 0x45, 0x4E, 0x44]⟩
    s.regionsOk = true ∧ parse Config.format (s.mem.readBytes s.latch.srcAddr.toNat s.latch.srcLen.toNat) = .ok k60Chunks ∧
    k60Chunks.find? (fun e => e.tag == Config.format.tagEnd) = some e ∧
    s.latch.srcLen.toNat + 16 ≤ s.latch.dstCap.toNat := ⟨by decide, by decide +kernel, by decide, by decide⟩

/-- A container without chunks: the header, payload and end marker are missing (CH18 to CH20). -/
theorem witness_ChunkSelectionErrors_missing :
    let s := accepted 0x22 0 8 0x100 16 0 0 0 (bytesAt 0 sigBytes)
    parse Config.format (s.mem.readBytes s.latch.srcAddr.toNat s.latch.srcLen.toNat) = .ok [] ∧
    s.latch.srcInRange s.memSize.toNat = true ∧ s.regionsOk = true := ⟨by decide +kernel, by decide, by decide⟩

/-- CH22 and CH23: a short header chunk, a short pad chunk. -/
theorem witness_ChunkSelectionErrors_short :
    (let s := accepted 0x22 0 24 0 0 0 0 0 (bytesAt 0 shortHdr)
     let e : Chunk := ⟨8, 4, Config.format.tagHdr⟩
     parse Config.format (s.mem.readBytes s.latch.srcAddr.toNat s.latch.srcLen.toNat) = .ok [e] ∧
       s.latch.srcInRange s.memSize.toNat = true ∧ [e].find? (fun e => e.tag == Config.format.tagHdr) = some e ∧ e.length < 8) ∧
    (let s := accepted 0x24 0 22 0 0 0 0 0 (bytesAt 0 shortPad)
     let e : Chunk := ⟨8, 2, Config.format.tagPad⟩
     parse Config.format (s.mem.readBytes s.latch.srcAddr.toNat s.latch.srcLen.toNat) = .ok [e] ∧
       s.latch.srcInRange s.memSize.toNat = true ∧ [e].find? (fun e => e.tag == Config.format.tagPad) = some e ∧ e.length < 4) :=
  ⟨⟨by decide +kernel, by decide, by decide, by decide⟩, ⟨by decide +kernel, by decide, by decide, by decide⟩⟩

/-- CH6 and its like for CHK_IDAT: an output one byte longer than DST_CAP. -/
theorem witness_ChunkSelectionErrors_overflow :
    (let s := onK60 0x25 60 75 2
     parse Config.format (s.mem.readBytes s.latch.srcAddr.toNat s.latch.srcLen.toNat) = .ok k60Chunks ∧ s.regionsOk = true ∧
       (k60Chunks.find? (fun e => e.tag == Config.format.tagEnd)).isSome = true ∧
       s.latch.dstCap.toNat < s.latch.srcLen.toNat + 16) ∧
    (let s := onK60 0x23 60 2 0
     let dat := k60Chunks.filter (fun e => e.tag == Config.format.tagDat)
     parse Config.format (s.mem.readBytes s.latch.srcAddr.toNat s.latch.srcLen.toNat) = .ok k60Chunks ∧ s.regionsOk = true ∧
       dat ≠ [] ∧ s.latch.dstCap.toNat < (dat.map (fun e => e.length)).sum) :=
  ⟨⟨by decide +kernel, by decide, by decide, by decide⟩, ⟨by decide +kernel, by decide, by decide, by decide⟩⟩

theorem witness_InsertedContainerParses :
    let e : Chunk := ⟨48, 0, [0x49, 0x45, 0x4E, 0x44]⟩
    parse Config.format k60 = .ok (k60Chunks.take 2 ++ e :: []) ∧ (∀ b ∈ k60Chunks.take 2, b.tag ≠ Config.format.tagEnd) ∧
    e.tag = Config.format.tagEnd := ⟨by decide +kernel, by decide, by decide +kernel⟩

/-- E1's payload, as one scanline of filter None, in a container that is K60 with those nine bytes as its data. -/
def e1Scanlines : List Byte := [0x00, 0x41, 0x42, 0x43, 0xFF, 0x44, 0x45, 0x46, 0xFF]

/-- The container of `e1Scanlines`. -/
def e1Container : List Byte :=
  k60.take 33 ++ [0, 0, 0, 9, 0x49, 0x44, 0x41, 0x54] ++ e1Scanlines ++ [0, 0, 0, 0] ++ k60.drop 48

/-- The chunks of `e1Container`. -/
def e1Chunks : List Chunk := [⟨8, 13, Config.format.tagHdr⟩, ⟨33, 9, Config.format.tagDat⟩, ⟨54, 0, Config.format.tagEnd⟩]

theorem witness_UnpackInvertsPack :
    let payload : List Byte := [0x41, 0x42, 0x43, 0x44, 0x45, 0x46]
    let w := gridWidth 32768 payload.length
    let h := gridHeight 32768 payload.length
    0 < 32768 ∧ filterDuty e1Scanlines (gridOf 32768 payload) w h ∧
    encoderDuty Config.format e1Container (id e1Scanlines) w h ∧ id (id e1Scanlines) = e1Scanlines ∧
    parse Config.format e1Container = .ok e1Chunks ∧ firstChunk e1Chunks Config.format.tagEnd = some ⟨54, 0, Config.format.tagEnd⟩ ∧
    gridPad 32768 payload.length < 2 ^ 32 := by
  refine ⟨by decide, ⟨by decide, by decide +kernel⟩, ?_, by decide +kernel, by decide +kernel, by decide, by decide⟩
  exact ⟨e1Chunks, ⟨8, 13, Config.format.tagHdr⟩, ⟨54, 0, Config.format.tagEnd⟩, by decide +kernel, by decide, by decide, by decide, by decide,
    by decide, by decide, by decide, by decide⟩

/-- Sequencer steps from states of the invariant: into the row walk, a row, and the end of it. -/
theorem witness_InvariantKept :
    beforeF12.inv = true ∧ (step beforeF12 = .next { beforeF12 with phase := .rows, row := 0 }) ∧
    (walking 1 0 18 0x100 16 2 2 (twoRows 4)).inv = true ∧ (walking 2 0 18 0x100 16 2 2 (twoRows 4)).inv = true :=
  ⟨by decide, rfl, by decide, by decide⟩

theorem witness_MachineNeverStops : (machine (bytesAt 0 k60)).inv = true ∧ (onK60 0x25 60 76 2).inv = true := by decide

theorem witness_CommandsComplete :
    (beforeF12.inv = true ∧ beforeF12.host = [] ∧ beforeF12.phase ≠ .idle) ∧
    (let s := walking 1 0 18 0x100 16 2 2 (twoRows 5)
     s.inv = true ∧ s.host = [] ∧ s.phase ≠ .idle) ∧
    (let s := accepted 0xFFFFFFFF 0 0 0 0 0 0xFFFFFFFF 0 []
     s.inv = true ∧ s.host = [] ∧ s.phase ≠ .idle) := by decide

theorem witness_ConstantRegistersKept : step beforeF12 = .next { beforeF12 with phase := .rows, row := 0 } := rfl

theorem witness_CommandsWriteOnlyDestination :
    (beforeF12.inv = true ∧ beforeF12.turn = .sequencer ∧
      step beforeF12 = .next { beforeF12 with phase := .rows, row := 0 }) ∧
    (let s := onK60 0x24 60 0 0
     s.inv = true ∧ s.turn = .sequencer ∧ (∃ t, step s = .next t) ∧ decodeCommand s.latch.word = .ok .chkPlen) ∧
    (let s := onK60 0x22 60 0 0
     s.inv = true ∧ s.turn = .sequencer ∧ (∃ t, step s = .next t) ∧ decodeCommand s.latch.word = .ok .chkHdr) :=
  ⟨⟨by decide, by decide, rfl⟩, ⟨by decide, by decide, ⟨_, rfl⟩, rfl⟩, ⟨by decide, by decide, ⟨_, rfl⟩, rfl⟩⟩

theorem witness_MemoryAfterFailure :
    (∃ t, (onK60 0x21 59 0x40 0).inv = true ∧ (onK60 0x21 59 0x40 0).turn = .sequencer ∧
      step (onK60 0x21 59 0x40 0) = .next t ∧ t.err = true ∧ t.errCode ≠ .invalidFilter) ∧
    (∃ t, (walking 1 0 18 0x100 16 2 2 (twoRows 5)).inv = true ∧
      (walking 1 0 18 0x100 16 2 2 (twoRows 5)).turn = .sequencer ∧
      step (walking 1 0 18 0x100 16 2 2 (twoRows 5)) = .next t ∧ t.err = true ∧ t.errCode = .invalidFilter) :=
  ⟨⟨_, by decide, by decide, rfl, by decide, by decide⟩, ⟨_, by decide, by decide, rfl, by decide, by decide⟩⟩

theorem witness_ResultsCommitAtCompletion :
    (∃ t, beforeF12.inv = true ∧ beforeF12.turn = .sequencer ∧ step beforeF12 = .next t ∧ t.phase ≠ .idle) ∧
    (∃ t, (onK60 0x21 59 0x40 0).inv = true ∧ (onK60 0x21 59 0x40 0).turn = .sequencer ∧
      step (onK60 0x21 59 0x40 0) = .next t ∧ t.err = true) ∧
    (∃ i ∈ [Instr.mapB2g, .mapG2b, .fltRecon, .chkScan, .chkIdat, .chkInspad],
      decodeCommand (onK60 0x21 59 0x40 0).latch.word = .ok i) :=
  ⟨⟨_, by decide, by decide, rfl, by decide⟩, ⟨_, by decide, by decide, rfl, by decide⟩, ⟨.chkScan, by decide, rfl⟩⟩

theorem witness_DecompressionFailureNeverRaised :
    beforeF12.errCode ≠ .decompressionFailure ∧ ∃ t, step beforeF12 = .next t := ⟨by decide, ⟨_, rfl⟩⟩

end Sys2Proof.Tests
end

section
/-! The constants of the machine: ID, MEM_SIZE, MAXDIM, SIG and the tags (00_scope.md R6, 10_state.md R21). Every update the
model makes leaves `State.constants` as it is, so a step does. -/

namespace Sys2Proof.Machine

/-! ### What an instruction can do -/

/-- Every next state of an instruction: the completion of a command, the start of the row walk of an FLT_RECON whose checks
have passed, or a row reconstructed with the filter type's predictor (00_scope.md R14, 41_filter.md R120). -/
theorem exec_cases {i : Instr} {s t : State} (h : exec i s = .next t) :
    (∃ r, t = s.finish r) ∨
      (i = .fltRecon ∧ fltCheck s.memSize.toNat s.latch = none ∧ t = { s with phase := .rows, row := 0 }) ∨
      (s.rowInMemory = true ∧
        t = { s with mem := s.mem.writeBytes s.reconAddr (s.reconstructed (predOf i)), row := s.row + 1 }) := by
  cases i with
  | mapB2g | mapG2b | chkScan | chkHdr | chkIdat | chkPlen | chkInspad =>
    exact .inl ⟨_, (Host.Outcome.next.inj h).symm⟩
  | fltRecon =>
    rcases execFltRecon_next h with ⟨f, -, ht⟩ | ⟨hc, ht⟩
    · exact .inl ⟨.error f, ht⟩
    · exact .inr (.inl ⟨rfl, hc, ht⟩)
  | ftNone | ftSub | ftUp | ftAverage | ftPaeth => exact .inr (.inr (reconstructRow_next h))

/-! ### What keeps the constants -/

/-- What no step changes: ID, MEM_SIZE, MAXDIM, and SIG and the tags (R6, R21; log 15). -/
def State.constants (s : State) : Word × Word × Word × ContainerFormat := (s.id, s.memSize, s.maxDim, s.format)

theorem State.constants_eq_iff {s t : State} :
    t.constants = s.constants ↔ t.id = s.id ∧ t.memSize = s.memSize ∧ t.maxDim = s.maxDim ∧ t.format = s.format := by
  simp [State.constants]

@[simp] theorem State.constants_tick (s : State) : s.tick.constants = s.constants := rfl

@[simp] theorem State.constants_respond (s : State) (r : Response) : (s.respond r).constants = s.constants := rfl

@[simp] theorem State.constants_finish (s : State) (r : Except Failure Commit) :
    (s.finish r).constants = s.constants := by
  rcases s.finish_cases r with ⟨f, -, h⟩ | ⟨c, -, h⟩
  · rw [h]; rfl
  · rw [h]; rfl

@[simp] theorem State.constants_afterRead (s : State) (r : Option Reg) : (s.afterRead r).constants = s.constants := by
  rcases s.afterRead_cases r with h | ⟨h, -, -⟩
  · rw [h]
  · rw [h]; rfl

@[simp] theorem State.constants_takeInterrupt (s : State) : s.takeInterrupt.constants = s.constants := by
  rcases s.takeInterrupt_cases with h | ⟨h, -, -⟩
  · rw [h]
  · rw [h]; rfl

/-- No register write reaches a constant, a soft reset included (10_state.md R21; 70_reset_and_hazards.md R222). -/
@[simp] theorem State.constants_writeReg (s : State) (r : Option Reg) (v : Word) :
    (s.writeReg r v).constants = s.constants := by
  rcases s.writeReg_cases r v with h | h | h | h | h | ⟨-, h | h | h | h | h | h | h | h⟩ <;> rw [h] <;> rfl

@[simp] theorem State.constants_readBuffer (s : State) (a : Nat) (w : Width) :
    (s.readBuffer a w).constants = s.constants := rfl

@[simp] theorem State.constants_writeBuffer (s : State) (a : Nat) (w : Width) (v : Word) :
    (s.writeBuffer a w v).constants = s.constants := by
  unfold State.writeBuffer
  cases hb : s.busy with
  | true => rw [State.ifIdle_busy hb]; rfl
  | false => rw [State.ifIdle_idle hb]; rfl

@[simp] theorem State.constants_hostAccess (s : State) (t : Txn) : (s.hostAccess t).constants = s.constants := by
  rcases s.hostAccess_cases t with h | ⟨r, v, h⟩ | ⟨r, v, h⟩ | ⟨a, w, -, -, h⟩ | ⟨a, w, v, -, h⟩ <;> simp [h]

/-- An event of the host keeps the constants. -/
theorem State.constants_hostEvent (s : State) (e : HostEvent) : (s.hostEvent e).constants = s.constants := by
  cases e with
  | access t => exact State.constants_hostAccess { s with justAccepted := false } t
  | interrupt => exact s.constants_takeInterrupt

/-- An instruction keeps the constants. -/
theorem exec_keeps_constants {i : Instr} {s t : State} (h : exec i s = .next t) : t.constants = s.constants := by
  rcases exec_cases h with ⟨r, rfl⟩ | ⟨-, -, rfl⟩ | ⟨-, rfl⟩
  · exact s.constants_finish r
  · rfl
  · rfl

/-- A step keeps the constants, whoever makes it. -/
theorem step_keeps_constants {s t : State} (h : step s = .next t) : t.constants = s.constants := by
  rcases step_cases h with ⟨-, rfl⟩ | ⟨p, rest, -, rfl⟩ | ⟨-, i, -, hi⟩ | ⟨-, -, rfl⟩ | ⟨-, -, rfl⟩ | ⟨-, -, rfl⟩
  · rfl
  · exact State.constants_hostEvent { s with host := rest } p.event
  · exact (exec_keeps_constants hi).trans s.constants_tick
  · rfl
  · rfl
  · rfl

/-- Settles O56: a step keeps `State.constants`. -/
theorem constantRegistersKept : Obligations.ConstantRegistersKept :=
  fun _ _ h => State.constants_eq_iff.mp (step_keeps_constants h)

end Sys2Proof.Machine
end

section
/-! What one step of the sequencer can do from a state of the invariant (10_state.md R43, 41_filter.md R120): every result a
command can have is one that a completion may take, and every row of a walk lies in the buffer memory. -/

namespace Sys2Proof.Machine

/-! ### The failures a command can end in -/

/-- The failure carries an error code a command may record: not 0, which is no error, and not 7, which is the host
software's (60_exceptions.md R190, R204). -/
def Failure.raised (f : Failure) : Bool := f.code != .none && f.code != .decompressionFailure

theorem Failure.raised_iff {f : Failure} : f.raised = true ↔ f.code ≠ .none ∧ f.code ≠ .decompressionFailure := by
  simp [Failure.raised]

theorem checkSource_raised {size : Nat} {o : Latch} {f : Failure} (h : checkSource size o = some f) :
    f.raised = true := by
  unfold checkSource at h
  split at h
  · cases h
  · cases h; rfl

theorem checkRegions_raised {size : Nat} {o : Latch} {f : Failure} (h : checkRegions size o = some f) :
    f.raised = true := by
  unfold checkRegions at h
  split at h
  · cases h; rfl
  · split at h
    · cases h; rfl
    · split at h
      · cases h; rfl
      · cases h

theorem fltCheck_raised {size : Nat} {o : Latch} {f : Failure} (h : fltCheck size o = some f) : f.raised = true := by
  unfold fltCheck at h
  split at h
  · cases h; exact checkRegions_raised ‹_›
  · simp only at h
    split at h
    · cases h; rfl
    · split at h
      · cases h; rfl
      · cases h

theorem parseFrom_raised {c : List Byte} {fuel p : Nat} {f : Failure} (h : parseFrom c fuel p = .error f) :
    f.raised = true := by
  induction fuel generalizing p with
  | zero => cases h
  | succ fuel ih =>
    rw [parseFrom] at h
    split at h
    · cases h
    · split at h
      · cases h; rfl
      · split at h
        · cases h; rfl
        · cases hr : parseFrom c fuel (p + 12 + be32At c p) with
          | ok rest => rw [hr] at h; cases h
          | error e => rw [hr] at h; cases h; exact ih hr

theorem parse_raised {f : ContainerFormat} {c : List Byte} {e : Failure} (h : parse f c = .error e) :
    e.raised = true := by
  unfold parse at h
  split at h
  · cases h; rfl
  · split at h
    · cases h; rfl
    · exact parseFrom_raised h

theorem outputOf_raised {o : Latch} {n : Nat} {out : List Byte} {f : Failure} (h : outputOf o n out = .error f) :
    f.raised = true := by
  unfold outputOf at h
  split at h
  · cases h; rfl
  · cases h

/-- A chunk command fails with its region check, its parse or its own part (42_chunk.md R150). -/
theorem chunkResult_raised {f : ContainerFormat} {check : Option Failure} {c : List Byte}
    {own : List Chunk → Except Failure Commit} {e : Failure} (hcheck : ∀ d, check = some d → d.raised = true)
    (hown : ∀ cs d, own cs = .error d → d.raised = true) (h : chunkResult f check c own = .error e) :
    e.raised = true := by
  unfold chunkResult at h
  split at h
  · cases h; exact hcheck _ rfl
  · split at h
    · cases h; exact parse_raised ‹_›
    · rename_i cs _
      cases ho : own cs with
      | ok k => rw [ho] at h; cases h
      | error d => rw [ho] at h; cases h; exact hown cs _ ho

theorem hdrOwn_raised {f : ContainerFormat} {o : Latch} {c : List Byte} {cs : List Chunk} {e : Failure}
    (h : hdrOwn f o c cs = .error e) : e.raised = true := by
  unfold hdrOwn at h
  split at h
  · cases h; rfl
  · split at h
    · cases h; rfl
    · cases h

theorem idatOwn_raised {f : ContainerFormat} {o : Latch} {c : List Byte} {cs : List Chunk} {e : Failure}
    (h : idatOwn f o c cs = .error e) : e.raised = true := by
  unfold idatOwn at h
  split at h
  · cases h; rfl
  · exact outputOf_raised h

theorem plenOwn_raised {f : ContainerFormat} {c : List Byte} {cs : List Chunk} {e : Failure}
    (h : plenOwn f c cs = .error e) : e.raised = true := by
  unfold plenOwn at h
  split at h
  · cases h
  · split at h
    · cases h; rfl
    · cases h

theorem inspadOwn_raised {f : ContainerFormat} {o : Latch} {c : List Byte} {cs : List Chunk} {e : Failure}
    (h : inspadOwn f o c cs = .error e) : e.raised = true := by
  unfold inspadOwn at h
  split at h
  · cases h; rfl
  · exact outputOf_raised h

theorem mapB2gResult_raised {size maxDim : Nat} {o : Latch} {m : Memory} {f : Failure}
    (h : mapB2gResult size maxDim o m = .error f) : f.raised = true := by
  unfold mapB2gResult at h
  split at h
  · cases h; exact checkRegions_raised ‹_›
  · simp only at h
    split at h
    · cases h; rfl
    · cases h

theorem mapG2bResult_raised {size : Nat} {o : Latch} {m : Memory} {f : Failure}
    (h : mapG2bResult size o m = .error f) : f.raised = true := by
  unfold mapG2bResult at h
  split at h
  · cases h; exact checkRegions_raised ‹_›
  · split at h
    · cases h; rfl
    · simp only at h
      split at h
      · cases h; rfl
      · cases h

/-! ### The results a completion may take -/

/-- What a completion may take: a failure with an error code, or a commit that stores inside the destination region. -/
def SoundResult (size : Nat) (o : Latch) : Except Failure Commit → Prop
  | .error f => f.raised = true
  | .ok c => c.Fits size o

theorem soundResult_of_cases {size : Nat} {o : Latch} {r : Except Failure Commit}
    (herr : ∀ f, r = .error f → f.raised = true) (hok : ∀ c, r = .ok c → c.Fits size o) : SoundResult size o r := by
  cases r with
  | error f => exact herr f rfl
  | ok c => exact hok c rfl

/-- FLT_RECON fails its checks, or starts its row walk (41_filter.md R120). -/
theorem execFltRecon_cases (s : State) :
    (∃ r, SoundResult s.memSize.toNat s.latch r ∧ exec .fltRecon s = .next (s.finish r)) ∨
      (fltCheck s.memSize.toNat s.latch = none ∧
        exec .fltRecon s = .next { s with phase := .rows, row := 0 }) := by
  have he : exec .fltRecon s = execFltRecon s := rfl
  rw [he, execFltRecon]
  cases hc : fltCheck s.memSize.toNat s.latch with
  | none => exact .inr ⟨rfl, rfl⟩
  | some f => exact .inl ⟨.error f, fltCheck_raised hc, rfl⟩

/-- A decoded command ends with a result a completion may take, or is an FLT_RECON whose checks pass, which starts its row
walk (00_scope.md R14, 41_filter.md R120). -/
theorem exec_command {s : State} {w : Word} {i : Instr} (hf : s.format.wellFormed = true)
    (hd : decodeCommand w = .ok i) :
    (∃ r, SoundResult s.memSize.toNat s.latch r ∧ exec i s = .next (s.finish r)) ∨
      (i = .fltRecon ∧ fltCheck s.memSize.toNat s.latch = none ∧
        exec i s = .next { s with phase := .rows, row := 0 }) := by
  have hpad : s.format.tagPad.length = 4 := (ContainerFormat.lengths hf).2.2.2.2
  have hreg : ∀ d, checkRegions s.memSize.toNat s.latch = some d → d.raised = true := fun _ => checkRegions_raised
  have hsrc : ∀ d, checkSource s.memSize.toNat s.latch = some d → d.raised = true := fun _ => checkSource_raised
  cases i with
  | mapB2g => exact .inl ⟨_, soundResult_of_cases (fun _ => mapB2gResult_raised) (fun _ => mapB2gResult_fits), rfl⟩
  | mapG2b => exact .inl ⟨_, soundResult_of_cases (fun _ => mapG2bResult_raised) (fun _ => mapG2bResult_fits), rfl⟩
  | fltRecon => exact (execFltRecon_cases s).imp_right fun h => ⟨rfl, h⟩
  | chkScan =>
    exact .inl ⟨_, soundResult_of_cases (fun _ => chunkResult_raised hreg fun _ _ => outputOf_raised)
      (fun _ => chkScanResult_fits), rfl⟩
  | chkHdr =>
    exact .inl ⟨_, soundResult_of_cases (fun _ => chunkResult_raised hsrc fun _ _ => hdrOwn_raised)
      (fun _ h => .inl (chkHdrResult_out h)), rfl⟩
  | chkIdat =>
    exact .inl ⟨_, soundResult_of_cases (fun _ => chunkResult_raised hreg fun _ _ => idatOwn_raised)
      (fun _ => chkIdatResult_fits), rfl⟩
  | chkPlen =>
    exact .inl ⟨_, soundResult_of_cases (fun _ => chunkResult_raised hsrc fun _ _ => plenOwn_raised)
      (fun _ h => .inl (chkPlenResult_out h)), rfl⟩
  | chkInspad =>
    exact .inl ⟨_, soundResult_of_cases (fun _ => chunkResult_raised hreg fun _ _ => inspadOwn_raised)
      (fun _ => chkInspadResult_fits hpad), rfl⟩
  | ftNone | ftSub | ftUp | ftAverage | ftPaeth => simpa using decodeCommand_kind hd

/-- A decoded filter-type byte reconstructs the current row with its predictor (41_filter.md R120). -/
theorem exec_filter {b : Byte} {i : Instr} (s : State) (hd : decodeFilter b = .ok i) :
    exec i s = reconstructRow (predOf i) s := by
  rcases decodeFilter_kind hd with rfl | rfl | rfl | rfl | rfl <;> rfl

/-! ### The row walk stays in memory -/

/-- Row `k + 1` of `n` rows of `l` bytes ends inside all of them. -/
theorem row_end_le {k n l : Nat} (h : k < n) : k * l + l ≤ n * l := by
  calc k * l + l = (k + 1) * l := (Nat.succ_mul k l).symm
    _ ≤ n * l := Nat.mul_le_mul_right l h

/-- After the checks of FLT_RECON every row's filtered and reconstructed bytes lie in the buffer memory (20_memory.md R51). -/
theorem State.rowInMemory_of_fltCheck {s : State} (hc : fltCheck s.memSize.toNat s.latch = none)
    (hr : s.row < s.latch.height.toNat) : s.rowInMemory = true := by
  obtain ⟨hregions, hneed, hout⟩ := fltCheck_eq_none.mp hc
  obtain ⟨hsrc, hdst, -⟩ := checkRegions_eq_none.mp hregions
  have hsrc := inRange_eq_true.mp hsrc
  have hdst := inRange_eq_true.mp hdst
  have hrow := row_end_le (l := scanlineLength s.latch.width.toNat) hr
  have hrec := row_end_le (l := rowBytes s.latch.width.toNat) hr
  have hpos : scanlineLength s.latch.width.toNat = 1 + rowBytes s.latch.width.toNat := rfl
  unfold scanlineNeed at hneed
  rw [reconLength, Nat.mul_comm] at hout
  unfold State.rowInMemory
  rw [Bool.and_eq_true, inRange_eq_true, inRange_eq_true, State.filteredAddr, State.filterOffset, State.reconAddr]
  constructor
  · omega
  · omega

/-! ### One step of the sequencer -/

/-- What one step of the sequencer leaves. -/
inductive SequencerStep (s : State) : State → Prop where
  /-- The command completes (60_exceptions.md R196, R198): a command word that is one atomic transformation, an illegal word, a
  failing check of FLT_RECON, or the end of its row walk. -/
  | completes (r : Except Failure Commit) (hr : SoundResult s.memSize.toNat s.latch r) :
      SequencerStep s (s.tick.finish r)
  /-- The row walk meets a filter byte of 5 to 255 (R197). -/
  | badFilter : SequencerStep s s.tick.invalidFilter
  /-- FLT_RECON starts its row walk. -/
  | starts (hp : s.phase = .command) (hd : decodeCommand s.latch.word = .ok .fltRecon)
      (hc : fltCheck s.memSize.toNat s.latch = none) :
      SequencerStep s { s.tick with phase := .rows, row := 0 }
  /-- The row walk reconstructs a row. -/
  | row (pred : Nat → Nat → Nat → Nat) (hp : s.phase = .rows) (hr : s.row < s.latch.height.toNat)
      (hm : s.rowInMemory = true) :
      SequencerStep s { s.tick with mem := s.mem.writeBytes s.reconAddr (s.reconstructed pred), row := s.row + 1 }

theorem State.illegalCommand_eq_finish (s : State) (w : Word) :
    s.illegalCommand w = s.finish (.error ⟨.illegalCommand, w⟩) := rfl

/-- What the end of a row walk commits (41_filter.md R120): DST_LEN alone, its bytes having been stored row by row. -/
def State.rowsCommit (s : State) : Commit :=
  { dstLen := some (BitVec.ofNat 32 (reconLength s.latch.width.toNat s.latch.height.toNat)) }

theorem State.rowsComplete_eq_finish (s : State) : s.tick.rowsComplete = s.tick.finish (.ok s.rowsCommit) := rfl

/-- In its turn the sequencer runs the instruction it fetches. -/
theorem step_of_fetch_instr {s : State} {i : Instr} (ht : s.turn = .sequencer) (hf : fetch s = .instr i) :
    step s = exec i s.tick := by
  simp only [step, ht, hf]

/-- The step of the sequencer with a command before it. -/
theorem step_command {s : State} (hf : s.format.wellFormed = true) (ht : s.turn = .sequencer)
    (hp : s.phase = .command) : ∃ t, step s = .next t ∧ SequencerStep s t := by
  rcases fetch_command (s := s) (by simp [hp]) with ⟨i, hd, hi⟩ | ⟨e, -, hi⟩
  · rw [step_of_fetch_instr ht hi]
    rcases exec_command (s := s.tick) hf hd with ⟨r, hr, he⟩ | ⟨rfl, hc, he⟩
    · exact ⟨_, he, .completes r hr⟩
    · exact ⟨_, he, .starts hp hd hc⟩
  · refine ⟨_, ?_, .completes (.error ⟨.illegalCommand, s.latch.word⟩) rfl⟩
    simp only [step, ht, hi, State.illegalCommand_eq_finish]

/-- The step of the sequencer in the row walk of an FLT_RECON whose checks have passed. -/
theorem step_rows {s : State} (hc : fltCheck s.memSize.toNat s.latch = none) (ht : s.turn = .sequencer)
    (hp : s.phase = .rows) : ∃ t, step s = .next t ∧ SequencerStep s t := by
  rcases fetch_rows hp with ⟨hr, i, hd, hi⟩ | ⟨-, -, hi⟩ | ⟨-, hi⟩
  · have hm : s.rowInMemory = true := State.rowInMemory_of_fltCheck hc hr
    rw [step_of_fetch_instr ht hi, exec_filter s.tick hd]
    exact ⟨_, reconstructRow_of_inMemory (s := s.tick) _ hm, .row (predOf i) hp hr hm⟩
  · exact ⟨_, by simp only [step, ht, hi], .badFilter⟩
  · refine ⟨_, ?_, .completes (.ok s.rowsCommit) (.inl rfl)⟩
    simp only [step, ht, hi, State.rowsComplete_eq_finish]

end Sys2Proof.Machine
end

section
/-! The invariant of the state (Safety.lean): what it says of an idle and of a busy state, and that every step of the host and
of the sequencer keeps it. -/

namespace Sys2Proof.Machine

/-! ### The invariant, part by part -/

theorem State.inv_iff {s : State} :
    s.inv = true ↔ s.memoryOk = true ∧ s.constantsOk = true ∧ s.statusOk = true ∧ s.latchOk = true ∧ s.rowsOk = true ∧
      s.visibilityOk = true ∧ s.acceptedOk = true := by
  simp only [State.inv, Bool.and_eq_true, and_assoc]

theorem State.memoryOk_iff {s : State} :
    s.memoryOk = true ↔ s.mem.wf s.memSize.toNat = true ∧ 16 ≤ s.memSize.toNat ∧ s.memSize.toNat ≤ 2 ^ 31 := by
  simp only [State.memoryOk, Bool.and_eq_true, decide_eq_true_eq, and_assoc]

/-- The memory may change to any canonical one of the same size. -/
theorem State.memoryOk_of_wf {s t : State} (h : s.memoryOk = true) (hsize : t.memSize = s.memSize)
    (hm : t.mem.wf s.memSize.toNat = true) : t.memoryOk = true := by
  rw [State.memoryOk_iff] at h ⊢
  rw [hsize]
  exact ⟨hm, h.2⟩

theorem State.constantsOk_congr {s t : State} (h : t.constants = s.constants) : t.constantsOk = s.constantsOk := by
  obtain ⟨hid, -, hmax, hfmt⟩ := State.constants_eq_iff.mp h
  rw [State.constantsOk, hid, hmax, hfmt, State.constantsOk]

theorem State.format_wellFormed {s : State} (h : s.constantsOk = true) : s.format.wellFormed = true := by
  rw [State.constantsOk, Bool.and_eq_true] at h
  exact h.2

/-- Nothing is asked of the host's next event unless a command has completed before any host access. -/
theorem State.acceptedOk_of_not_justAccepted {s : State} (h : s.justAccepted = false) : s.acceptedOk = true := by
  simp [State.acceptedOk, h]

theorem State.acceptedOk_of_busy {s : State} (h : s.phase ≠ .idle) : s.acceptedOk = true := by
  simp [State.acceptedOk, State.busy, h]

/-- The invariant of an idle state. -/
theorem State.inv_idle_iff {s : State} (h : s.phase = .idle) :
    s.inv = true ↔ s.memoryOk = true ∧ s.constantsOk = true ∧
      ((s.err = true → s.errCode ≠ .none) ∧ s.errCode ≠ .decompressionFailure) ∧
      s.latch = Latch.empty ∧ s.row = 0 ∧ s.acceptedOk = true := by
  have hb : s.busy = false := (State.busy_eq_false_iff s).mpr h
  rw [State.inv_iff]
  simp [State.statusOk, State.latchOk, State.rowsOk, State.visibilityOk, h, hb, imp_iff_not_or]

/-- The STATUS rules while BUSY = 1 (10_state.md R27, R42). -/
theorem State.statusOk_busy_iff {s : State} (h : s.phase ≠ .idle) :
    s.statusOk = true ↔ s.done = false ∧ s.err = false ∧ s.errCode = .none ∧ s.errInfo = 0 := by
  have hb : s.busy = true := (State.busy_eq_true_iff s).mpr h
  simp only [State.statusOk, hb, Bool.not_true, Bool.false_or, Bool.and_eq_true, Bool.not_eq_true', beq_iff_eq, and_assoc]
  constructor
  · rintro ⟨hd, he, hc, hi, -⟩
    exact ⟨hd, he, hc, hi⟩
  · rintro ⟨hd, he, hc, hi⟩
    exact ⟨hd, he, hc, hi, by simp [he], by simp [hc]⟩

/-- The invariant of a busy state. -/
theorem State.inv_busy_iff {s : State} (h : s.phase ≠ .idle) :
    s.inv = true ↔ s.memoryOk = true ∧ s.constantsOk = true ∧
      (s.done = false ∧ s.err = false ∧ s.errCode = .none ∧ s.errInfo = 0) ∧
      s.latch = s.snapshot s.cmd ∧ s.rowsOk = true ∧ s.old = s.results ∧
      (hasDestination s.latch.word = true → s.latch.dstRegion ∈ s.unseen) := by
  have hb : s.busy = true := (State.busy_eq_true_iff s).mpr h
  rw [State.inv_iff, State.statusOk_busy_iff h]
  simp [State.latchOk, State.visibilityOk, State.acceptedOk_of_busy h, hb, imp_iff_not_or, and_assoc]

/-- In a state of the invariant DONE = 1 only while no command is in flight (R27). -/
theorem State.idle_of_done {s : State} (h : s.inv = true) (hd : s.done = true) : s.phase = .idle := by
  by_contra hp
  obtain ⟨-, -, ⟨hd', -⟩, -⟩ := (State.inv_busy_iff hp).mp h
  simp [hd] at hd'

/-- The row walk of a state of the invariant (41_filter.md R120). -/
theorem State.rowsOk_rows_iff {s : State} (h : s.phase = .rows) :
    s.rowsOk = true ↔ decodeCommand s.latch.word = .ok .fltRecon ∧ fltCheck s.memSize.toNat s.latch = none ∧
      s.row ≤ s.latch.height.toNat := by
  have hopt : (decodeCommand s.latch.word).toOption = some .fltRecon ↔ decodeCommand s.latch.word = .ok .fltRecon := by
    cases decodeCommand s.latch.word <;> simp [Except.toOption]
  simp [State.rowsOk, h, hopt, and_assoc]

/-! ### The host keeps the invariant -/

/-- What the invariant asks of the host's next event is gone once it happens. -/
theorem State.inv_forget_acceptance {s : State} (rest : List Pending) (h : s.inv = true) :
    ({ s with host := rest, justAccepted := false } : State).inv = true := by
  obtain ⟨hm, hc, hs, hl, hr, hv, -⟩ := State.inv_iff.mp h
  exact State.inv_iff.mpr ⟨hm, hc, hs, hl, hr, hv, rfl⟩

/-- The acceptance of a command keeps the invariant (10_state.md R42). -/
theorem State.accept_keeps_inv {s : State} (w : Word) (hi : s.phase = .idle) (h : s.inv = true) :
    (s.accept w).inv = true := by
  obtain ⟨hm, hc, -⟩ := (State.inv_idle_iff hi).mp h
  have hp : (s.accept w).phase ≠ .idle := by simp
  refine (State.inv_busy_iff hp).mpr ⟨hm, hc, ⟨rfl, rfl, rfl, rfl⟩, rfl, rfl, rfl, fun hd => ?_⟩
  have hw : hasDestination w = true := hd
  simp [hw]

/-- A soft reset keeps the invariant (70_reset_and_hazards.md R222, R223). -/
theorem State.softReset_keeps_inv {s : State} (h : s.inv = true) : s.softReset.inv = true := by
  obtain ⟨hm, hc, -⟩ := State.inv_iff.mp h
  have hwf : s.softReset.mem.wf s.memSize.toNat = true := State.abort_wf s (State.memoryOk_iff.mp hm).1
  exact (State.inv_idle_iff rfl).mpr
    ⟨State.memoryOk_of_wf hm rfl hwf, hc, ⟨nofun, nofun⟩, rfl, rfl, State.acceptedOk_of_not_justAccepted rfl⟩

/-- A write of STATUS keeps the invariant (R27). -/
theorem State.clearStatus_keeps_inv {s : State} (v : Word) (hj : s.justAccepted = false) (h : s.inv = true) :
    (s.clearStatus v).inv = true := by
  have ha : (s.clearStatus v).acceptedOk = true := State.acceptedOk_of_not_justAccepted hj
  by_cases hp : s.phase = .idle
  · obtain ⟨hm, hc, ⟨he, h7⟩, hl, hr, -⟩ := (State.inv_idle_iff hp).mp h
    refine (State.inv_idle_iff (s := s.clearStatus v) hp).mpr ⟨hm, hc, ⟨fun hv => he ?_, h7⟩, hl, hr, ha⟩
    rw [State.clearStatus_err, Bool.and_eq_true] at hv
    exact hv.1
  · obtain ⟨hm, hc, ⟨hd, he, hs⟩, hl, hr, hv⟩ := (State.inv_busy_iff hp).mp h
    exact (State.inv_busy_iff (s := s.clearStatus v) hp).mpr ⟨hm, hc, ⟨by simp [hd], by simp [he], hs⟩, hl, hr, hv⟩

/-- A write of an operand register while BUSY = 0 keeps the invariant: an idle sequencer's invariant speaks of none. -/
theorem State.operand_write_keeps_inv {s t : State} (hi : s.phase = .idle) (h : s.inv = true)
    (ht : t = { s with
      srcAddr := t.srcAddr, srcLen := t.srcLen, dstAddr := t.dstAddr, dstCap := t.dstCap, width := t.width,
      height := t.height, padLen := t.padLen, old := t.old }) : t.inv = true := by
  rw [ht]
  exact (State.inv_idle_iff (by exact hi)).mpr ((State.inv_idle_iff hi).mp h)

/-- A register write keeps the invariant, once nothing is asked of the next event. -/
theorem State.writeReg_keeps_inv {s : State} (r : Option Reg) (v : Word) (hj : s.justAccepted = false)
    (h : s.inv = true) : (s.writeReg r v).inv = true := by
  rcases s.writeReg_cases r v with e | e | e | e | e | ⟨hb, e⟩
  · rw [e]; exact h
  · rw [e]; exact h
  · rw [e]; exact State.softReset_keeps_inv h
  · obtain ⟨hm, hc, hs, hl, hr, hv, -⟩ := State.inv_iff.mp h
    rw [e]
    exact State.inv_iff.mpr ⟨hm, hc, hs, hl, hr, hv, State.acceptedOk_of_not_justAccepted hj⟩
  · rw [e]; exact State.clearStatus_keeps_inv v hj h
  · have hi : s.phase = .idle := (State.busy_eq_false_iff s).mp hb
    rcases e with e | e | e | e | e | e | e | e
    · rw [e]; exact State.accept_keeps_inv v hi h
    all_goals rw [e]; exact State.operand_write_keeps_inv hi h rfl

/-- The observation of BUSY = 0 keeps the invariant (20_memory.md R60). -/
theorem State.observe_keeps_inv {s : State} (hi : s.phase = .idle) (h : s.inv = true) : s.observe.inv = true :=
  (State.inv_idle_iff (s := s.observe) hi).mpr ((State.inv_idle_iff hi).mp h)

/-- A register read keeps the invariant. -/
theorem State.afterRead_keeps_inv {s : State} (r : Option Reg) (h : s.inv = true) : (s.afterRead r).inv = true := by
  rcases s.afterRead_cases r with e | ⟨e, -, hseen⟩
  · rw [e]; exact h
  · have hi : s.phase = .idle := hseen.elim (State.busy_eq_false_iff s).mp (State.idle_of_done h)
    rw [e]; exact State.observe_keeps_inv hi h

/-- A buffer write inside the memory keeps the invariant (20_memory.md R52, R61). -/
theorem State.writeBuffer_keeps_inv {s : State} {a : Nat} {w : Width} (v : Word)
    (hfit : a + w.bytes ≤ s.memSize.toNat) (h : s.inv = true) : (s.writeBuffer a w v).inv = true := by
  cases hb : s.busy with
  | true => rw [State.writeBuffer, State.ifIdle_busy hb]; exact h
  | false =>
    have hi : s.phase = .idle := (State.busy_eq_false_iff s).mp hb
    obtain ⟨hm, hrest⟩ := (State.inv_idle_iff hi).mp h
    have hwf : (s.mem.writeBytes a (busBytes w v)).wf s.memSize.toNat = true :=
      Memory.wf_writeBytes a _ (.inr (by rw [busBytes_length]; exact hfit)) (State.memoryOk_iff.mp hm).1
    rw [State.writeBuffer, State.ifIdle_idle hb]
    exact (State.inv_idle_iff (by exact hi)).mpr ⟨State.memoryOk_of_wf hm rfl hwf, hrest⟩

/-- A bus transaction keeps the invariant, once nothing is asked of the next event. -/
theorem State.hostAccess_keeps_inv {s : State} (t : Txn) (hj : s.justAccepted = false) (h : s.inv = true) :
    (s.hostAccess t).inv = true := by
  rcases s.hostAccess_cases t with e | ⟨r, v, e⟩ | ⟨r, v, e⟩ | ⟨a, w, -, -, e⟩ | ⟨a, w, v, hfit, e⟩
  · rw [e]; exact h
  · rw [e]; exact State.afterRead_keeps_inv r h
  · rw [e]; exact State.writeReg_keeps_inv r v hj h
  · rw [e]; exact h
  · rw [e]; exact State.writeBuffer_keeps_inv v hfit h

/-- Taking the interrupt while IRQ is high is the observation (20_memory.md R60, 60_exceptions.md R199). -/
theorem State.takeInterrupt_high {s : State} (h : s.irq = true) :
    s.takeInterrupt = { s.observe with justAccepted := false } := by
  rw [State.takeInterrupt, if_pos h]

/-- While IRQ is low there is no interrupt to take (log 23). -/
theorem State.takeInterrupt_low {s : State} (h : s.irq = false) : s.takeInterrupt = s := by
  rw [State.takeInterrupt, if_neg (by simp [h])]

/-- Taking the interrupt keeps the invariant: while IRQ is low it can only be the next event with a command in flight, or with
no acceptance before it (log 22). -/
theorem State.takeInterrupt_keeps_inv {s : State} {p : Pending} {rest : List Pending} (hh : s.host = p :: rest)
    (he : p.event = .interrupt) (h : s.inv = true) :
    (State.takeInterrupt { s with host := rest }).inv = true := by
  obtain ⟨hm, hc, hs, hl, hr, hv, ha⟩ := State.inv_iff.mp h
  cases hirq : s.irq with
  | true =>
    have hi : s.phase = .idle := State.idle_of_done h (Bool.and_eq_true_iff.mp hirq).2
    rw [State.takeInterrupt_high (s := { s with host := rest }) hirq]
    exact State.observe_keeps_inv (s := { s with host := rest, justAccepted := false }) hi
      (State.inv_forget_acceptance rest h)
  | false =>
    rw [State.takeInterrupt_low (s := { s with host := rest }) hirq]
    refine State.inv_iff.mpr ⟨hm, hc, hs, hl, hr, hv, ?_⟩
    simp only [State.acceptedOk, hh, he, hirq, Bool.or_false, Bool.or_eq_true, Bool.not_eq_true'] at ha
    rcases ha with hj | hb
    · exact State.acceptedOk_of_not_justAccepted hj
    · exact State.acceptedOk_of_busy ((State.busy_eq_true_iff s).mp hb)

/-- The host's next event keeps the invariant. -/
theorem State.hostEvent_keeps_inv {s : State} {p : Pending} {rest : List Pending} (hh : s.host = p :: rest)
    (h : s.inv = true) : (State.hostEvent { s with host := rest } p.event).inv = true := by
  cases he : p.event with
  | access t =>
    exact State.hostAccess_keeps_inv (s := { s with host := rest, justAccepted := false }) t rfl
      (State.inv_forget_acceptance rest h)
  | interrupt => exact State.takeInterrupt_keeps_inv hh he h

/-! ### The sequencer keeps the invariant -/

/-- It is the host's turn only with its next event. -/
theorem State.turn_host {s : State} {p : Pending} {rest : List Pending} (h : s.turn = .host p rest) :
    s.host = p :: rest := by
  unfold State.turn at h
  split at h
  · split at h <;> cases h
  · split at h
    · cases h
    · cases h; assumption

/-- The host's turn is its next event (10_state.md R20). -/
theorem step_of_turn_host {s : State} {p : Pending} {rest : List Pending} (ht : s.turn = .host p rest) :
    step s = .next ({ s with host := rest }.hostEvent p.event) := by
  simp only [step, ht]

/-- It is the sequencer's turn only with an event that may wait (10_state.md R42). -/
theorem State.not_hostFirst_of_turn {s : State} {p : Pending} {rest : List Pending} (ht : s.turn = .sequencer)
    (hh : s.host = p :: rest) : s.hostFirst p.event = false := by
  by_contra hf
  rw [State.turn_of_hostFirst hh (by simpa using hf)] at ht
  cases ht

/-- After a completion the host's next event, if none has happened since the acceptance, is no read, and an interrupt that is
there to be taken (R42; log 22). -/
theorem State.acceptedOk_of_completed {s t : State} (ht : s.turn = .sequencer) (hhost : t.host = s.tick.host)
    (hj : t.justAccepted = s.justAccepted) (hirq : t.irq = s.irqEn) : t.acceptedOk = true := by
  simp only [State.acceptedOk, hhost, hj, hirq, State.tick]
  cases hh : s.host with
  | nil => simp
  | cons p rest =>
    have hf := State.not_hostFirst_of_turn ht hh
    unfold State.hostFirst at hf
    cases hacc : s.justAccepted with
    | false => simp
    | true =>
      cases he : p.event with
      | access a => cases hd : a.dir <;> simp [hacc, he, hd] at hf ⊢
      | interrupt => simp_all

/-- A completion with a result it may take keeps the invariant. -/
theorem State.finish_keeps_inv {s : State} {r : Except Failure Commit} (h : s.inv = true) (ht : s.turn = .sequencer)
    (hr : SoundResult s.memSize.toNat s.latch r) : (s.tick.finish r).inv = true := by
  have hp : s.phase ≠ .idle := (State.busy_eq_true_iff s).mp (State.turn_sequencer ht)
  obtain ⟨hm, hc, ⟨-, he, hcode, -⟩, -⟩ := (State.inv_busy_iff hp).mp h
  cases r with
  | error f =>
    have hf : f.code ≠ .none ∧ f.code ≠ .decompressionFailure := Failure.raised_iff.mp hr
    exact (State.inv_idle_iff (s := s.tick.fail f) rfl).mpr
      ⟨hm, hc, ⟨fun _ => hf.1, hf.2⟩, rfl, rfl, State.acceptedOk_of_completed ht rfl rfl (Bool.and_true _)⟩
  | ok c =>
    have hwf := State.commit_wf s.tick c hr (State.memoryOk_iff.mp hm).1
    refine (State.inv_idle_iff (s := s.tick.commit c) rfl).mpr ⟨State.memoryOk_of_wf hm rfl hwf, hc, ⟨?_, ?_⟩, rfl, rfl,
      State.acceptedOk_of_completed ht rfl rfl (Bool.and_true _)⟩
    · simp [he]
    · simp [hcode]

/-- Free values in the buffer memory keep the invariant of a busy state. -/
theorem State.scramble_keeps_inv {s : State} (a n : Nat) (hp : s.phase ≠ .idle) (h : s.inv = true) :
    (s.scramble a n).inv = true := by
  obtain ⟨hm, hrest⟩ := (State.inv_busy_iff hp).mp h
  have hwf := State.scramble_wf s a n (State.memoryOk_iff.mp hm).1
  exact (State.inv_busy_iff (s := s.scramble a n) hp).mpr ⟨State.memoryOk_of_wf hm rfl hwf, hrest⟩

@[simp] theorem State.scramble_turn (s : State) (a n : Nat) : (s.scramble a n).turn = s.turn := rfl

/-- A bad filter byte completes the command, from a buffer memory whose output region holds free values (60_exceptions.md
R197). -/
theorem State.invalidFilter_eq_finish (s : State) :
    s.tick.invalidFilter =
      (s.scramble s.latch.dstAddr.toNat (reconLength s.latch.width.toNat s.latch.height.toNat)).tick.finish
        (.error ⟨.invalidFilter, BitVec.ofNat 32 s.filterOffset⟩) := rfl

/-- The start of the row walk keeps the invariant. -/
theorem State.startRows_keeps_inv {s : State} (h : s.inv = true) (hp : s.phase = .command)
    (hd : decodeCommand s.latch.word = .ok .fltRecon) (hc : fltCheck s.memSize.toNat s.latch = none) :
    ({ s.tick with phase := .rows, row := 0 } : State).inv = true := by
  obtain ⟨hm, hconst, hs, hl, -, hv⟩ := (State.inv_busy_iff (by simp [hp])).mp h
  exact (State.inv_busy_iff (by simp)).mpr
    ⟨hm, hconst, hs, hl, (State.rowsOk_rows_iff (by rfl)).mpr ⟨hd, hc, Nat.zero_le _⟩, hv⟩

/-- The reconstruction of a row keeps the invariant. -/
theorem State.nextRow_keeps_inv {s : State} (pred : Nat → Nat → Nat → Nat) (h : s.inv = true) (hp : s.phase = .rows)
    (hr : s.row < s.latch.height.toNat) (hin : s.rowInMemory = true) :
    ({ s.tick with mem := s.mem.writeBytes s.reconAddr (s.reconstructed pred), row := s.row + 1 } : State).inv = true := by
  have hb : s.phase ≠ .idle := by simp [hp]
  obtain ⟨hm, hconst, hs, hl, hrows, hv⟩ := (State.inv_busy_iff hb).mp h
  obtain ⟨hd, hc, -⟩ := (State.rowsOk_rows_iff hp).mp hrows
  have hfit : s.reconstructed pred = [] ∨ s.reconAddr + (s.reconstructed pred).length ≤ s.memSize.toNat := by
    rw [← List.length_eq_zero_iff, State.reconstructed_length]
    exact inRange_eq_true.mp (Bool.and_eq_true_iff.mp hin).2
  have hwf := Memory.wf_writeBytes _ _ hfit (State.memoryOk_iff.mp hm).1
  exact (State.inv_busy_iff (by exact hb)).mpr ⟨State.memoryOk_of_wf hm rfl hwf, hconst, hs, hl,
    (State.rowsOk_rows_iff (by exact hp)).mpr ⟨hd, hc, hr⟩, hv⟩

/-- In a state of the invariant the sequencer makes its step in its turn, and it is one of `SequencerStep`. -/
theorem step_sequencer {s : State} (h : s.inv = true) (ht : s.turn = .sequencer) :
    ∃ t, step s = .next t ∧ SequencerStep s t := by
  have hb : s.phase ≠ .idle := (State.busy_eq_true_iff s).mp (State.turn_sequencer ht)
  obtain ⟨-, hc, -, -, hrows, -⟩ := (State.inv_busy_iff hb).mp h
  cases hp : s.phase with
  | idle => exact absurd hp hb
  | command => exact step_command (State.format_wellFormed hc) ht hp
  | rows => exact step_rows ((State.rowsOk_rows_iff hp).mp hrows).2.1 ht hp

theorem sequencerStep_of_step {s t : State} (h : s.inv = true) (ht : s.turn = .sequencer) (hs : step s = .next t) :
    SequencerStep s t := by
  obtain ⟨u, hu, hstep⟩ := step_sequencer h ht
  rw [hu] at hs
  cases hs
  exact hstep

/-- A step of the sequencer keeps the invariant. -/
theorem SequencerStep.keeps_inv {s t : State} (h : s.inv = true) (ht : s.turn = .sequencer) (hst : SequencerStep s t) :
    t.inv = true := by
  cases hst with
  | completes r hr => exact State.finish_keeps_inv h ht hr
  | badFilter =>
    have hb : s.phase ≠ .idle := (State.busy_eq_true_iff s).mp (State.turn_sequencer ht)
    rw [State.invalidFilter_eq_finish]
    exact State.finish_keeps_inv (State.scramble_keeps_inv _ _ hb h) ((s.scramble_turn _ _).trans ht) rfl
  | starts hp hd hc => exact State.startRows_keeps_inv h hp hd hc
  | row pred hp hr hin => exact State.nextRow_keeps_inv pred h hp hr hin

/-! ### Every step keeps the invariant -/

/-- Settles O53: the host's step by its events, the sequencer's by the cases of `SequencerStep`. -/
theorem invariantKept : Obligations.InvariantKept := by
  intro s t h hs
  cases ht : s.turn with
  | nobody =>
    simp only [step, ht, Host.Outcome.next.injEq] at hs
    exact hs ▸ h
  | host p rest =>
    rw [step_of_turn_host ht] at hs
    cases hs
    exact State.hostEvent_keeps_inv (State.turn_host ht) h
  | sequencer => exact (sequencerStep_of_step h ht hs).keeps_inv h ht

end Sys2Proof.Machine
end

section
/-! The results and the end of a command: what a step of the sequencer leaves of the result registers (10_state.md R41,
20_memory.md R60), and that the steps of a command come to an end (R42, 70_reset_and_hazards.md R234). -/

namespace Sys2Proof.Machine

/-! ### Completions and what the host sees -/

@[simp] theorem State.finish_phase (s : State) (r : Except Failure Commit) : (s.finish r).phase = .idle :=
  (s.finish_idle r).1

@[simp] theorem State.finish_done (s : State) (r : Except Failure Commit) : (s.finish r).done = true :=
  (s.finish_idle r).2.1

@[simp] theorem State.finish_old (s : State) (r : Except Failure Commit) : (s.finish r).old = s.old := by
  cases r <;> rfl

@[simp] theorem State.finish_unseen (s : State) (r : Except Failure Commit) : (s.finish r).unseen = s.unseen := by
  cases r <;> rfl

@[simp] theorem State.finish_host (s : State) (r : Except Failure Commit) : (s.finish r).host = s.host := by
  cases r <;> rfl

@[simp] theorem State.finish_irqEn (s : State) (r : Except Failure Commit) : (s.finish r).irqEn = s.irqEn := by
  cases r <;> rfl

theorem State.results_eq_iff {s t : State} :
    t.results = s.results ↔ t.dstLen = s.dstLen ∧ t.width = s.width ∧ t.height = s.height ∧ t.padLen = s.padLen ∧
      t.chunkCount = s.chunkCount := by
  simp [State.results]

/-- The old values are those of every result register (R47, R60). -/
theorem State.readReg_of_old_eq_results {s t : State} (h : t.old = s.results) {r : Reg} (hr : r ∈ resultRegs) :
    t.readReg (some r) = s.regValue (some r) := by
  rw [State.readReg, h]
  simp only [resultRegs, List.mem_cons, List.not_mem_nil, or_false] at hr
  rcases hr with rfl | rfl | rfl | rfl | rfl <;> rfl

/-- The six commands with a destination region (R47). -/
theorem hasDestination_of_decode {w : Word} {i : Instr} (hd : decodeCommand w = .ok i)
    (hi : i ∈ [Instr.mapB2g, .mapG2b, .fltRecon, .chkScan, .chkIdat, .chkInspad]) : hasDestination w = true := by
  rw [hasDestination, hd]
  simp only [List.mem_cons, List.not_mem_nil, or_false] at hi
  rcases hi with rfl | rfl | rfl | rfl | rfl | rfl <;> rfl

namespace SequencerStep

variable {s t : State}

/-- No step of the sequencer is an observation of BUSY = 0 (20_memory.md R60). -/
theorem old_unseen (hst : SequencerStep s t) : t.old = s.old ∧ t.unseen = s.unseen := by
  cases hst with
  | completes r => exact ⟨State.finish_old _ r, State.finish_unseen _ r⟩
  | badFilter | starts | row => exact ⟨rfl, rfl⟩

/-- DONE is set in the step that clears BUSY (10_state.md R41). -/
theorem idle_iff_done (hd : s.done = false) (hst : SequencerStep s t) : t.phase = .idle ↔ t.done = true := by
  cases hst with
  | completes r => simp
  | badFilter => exact ⟨fun _ => rfl, fun _ => rfl⟩
  | starts => simp [hd]
  | row pred hp => simp [hd, hp]

/-- Only a success completion changes a result register (R41, 60_exceptions.md R196). -/
theorem results_eq (he : s.err = false) (hst : SequencerStep s t) (ht : t.phase ≠ .idle ∨ t.err = true) :
    t.results = s.results := by
  cases hst with
  | completes r =>
    cases r with
    | error f => rfl
    | ok c => simp [State.finish_ok, he] at ht
  | badFilter | starts | row => rfl

end SequencerStep

/-- Settles O59: the cases of `SequencerStep`, from a state whose result registers hold what they read as. -/
theorem resultsCommitAtCompletion : Obligations.ResultsCommitAtCompletion := by
  intro s t h ht hs
  have hst : SequencerStep s t := sequencerStep_of_step h ht hs
  have hb : s.phase ≠ .idle := (State.busy_eq_true_iff s).mp (State.turn_sequencer ht)
  obtain ⟨-, -, ⟨hdone, herr, -⟩, -, -, hold, hdst⟩ := (State.inv_busy_iff hb).mp h
  obtain ⟨hto, htu⟩ := hst.old_unseen
  refine ⟨fun hc => State.results_eq_iff.mp (hst.results_eq herr hc), hst.idle_iff_done hdone, fun r hr => ?_, htu, ?_⟩
  · rw [State.readReg_of_old_eq_results (hto.trans hold) hr, State.readReg_of_results hold]
  · rintro ⟨i, hi, hd⟩
    rw [htu]
    exact hdst (hasDestination_of_decode hd hi)

/-! ### Every command comes to its end -/

/-- The most steps the sequencer still makes: one that starts a row walk, one a row, and the completion. -/
def State.stepsLeft (s : State) : Nat :=
  match s.phase with
  | .idle => 0
  | .command => s.latch.height.toNat + 2
  | .rows => s.latch.height.toNat - s.row + 1

theorem State.stepsLeft_le (s : State) : s.stepsLeft ≤ s.latch.height.toNat + 2 := by
  unfold State.stepsLeft
  split <;> omega

theorem State.stepsLeft_of_idle {s : State} (h : s.phase = .idle) : s.stepsLeft = 0 := by
  simp [State.stepsLeft, h]

theorem State.stepsLeft_of_command {s : State} (h : s.phase = .command) :
    s.stepsLeft = s.latch.height.toNat + 2 := by
  simp [State.stepsLeft, h]

theorem State.stepsLeft_of_rows {s : State} (h : s.phase = .rows) :
    s.stepsLeft = s.latch.height.toNat - s.row + 1 := by
  simp [State.stepsLeft, h]

theorem State.stepsLeft_pos {s : State} (h : s.phase ≠ .idle) : 0 < s.stepsLeft := by
  cases hp : s.phase with
  | idle => exact absurd hp h
  | command => rw [State.stepsLeft_of_command hp]; omega
  | rows => rw [State.stepsLeft_of_rows hp]; omega

theorem SequencerStep.stepsLeft_lt {s t : State} (hb : s.phase ≠ .idle) (hst : SequencerStep s t) :
    t.stepsLeft < s.stepsLeft := by
  have hpos := State.stepsLeft_pos hb
  cases hst with
  | completes r => rwa [State.stepsLeft_of_idle (State.finish_phase _ r)]
  | badFilter => rwa [State.stepsLeft_of_idle (by rfl)]
  | starts hp =>
    rw [State.stepsLeft_of_command hp, State.stepsLeft_of_rows (by rfl), State.tick_latch]
    omega
  | row pred hp hr =>
    rw [State.stepsLeft_of_rows hp, State.stepsLeft_of_rows (by exact hp)]
    show s.latch.height.toNat - (s.row + 1) + 1 < s.latch.height.toNat - s.row + 1
    omega

theorem SequencerStep.host_eq {s t : State} (hst : SequencerStep s t) : t.host = s.tick.host := by
  cases hst with
  | completes r => exact State.finish_host _ r
  | badFilter | starts | row => rfl

/-- With nothing to do PPCB stays as it is (70_reset_and_hazards.md R220). -/
theorem step_of_nothing_to_do {s : State} (hh : s.host = []) (hp : s.phase = .idle) : step s = .next s := by
  have ht : s.turn = .nobody := by simp [State.turn, State.busy, hh, hp]
  simp only [step, ht]

theorem State.turn_of_busy_alone {s : State} (hh : s.host = []) (hb : s.phase ≠ .idle) : s.turn = .sequencer := by
  simp [State.turn, State.busy, hh, hb]

theorem core_run_succ {s t : State} (n : Nat) (h : step s = .next t) :
    Host.Core.run Sys2Proof.core (n + 1) s = Host.Core.run Sys2Proof.core n t := by
  have hs : Sys2Proof.core.step s = .next t := h
  simp only [Host.Core.run, hs]

theorem core_run_of_fixed {s : State} (n : Nat) (h : step s = .next s) :
    Host.Core.run Sys2Proof.core n s = .next s := by
  induction n with
  | zero => rfl
  | succ n ih => rw [core_run_succ n h, ih]

/-- As many steps as are left end in the idle state, with DONE set if a command was in flight. -/
theorem core_run_completes {s : State} {n : Nat} (h : s.inv = true) (hh : s.host = []) (hn : s.stepsLeft ≤ n) :
    ∃ t : State, Host.Core.run Sys2Proof.core n s = .next t ∧ t.phase = .idle ∧
      (s.phase ≠ .idle ∨ s.done = true → t.done = true) := by
  induction n generalizing s with
  | zero =>
    have hp : s.phase = .idle := by
      by_contra hb
      exact absurd (State.stepsLeft_pos hb) (by omega)
    exact ⟨s, rfl, hp, fun hd => hd.resolve_left (· hp)⟩
  | succ n ih =>
    by_cases hp : s.phase = .idle
    · exact ⟨s, core_run_of_fixed _ (step_of_nothing_to_do hh hp), hp, fun hd => hd.resolve_left (· hp)⟩
    · have ht := State.turn_of_busy_alone hh hp
      obtain ⟨-, -, ⟨hdone, -⟩, -⟩ := (State.inv_busy_iff hp).mp h
      obtain ⟨u, hs, hst⟩ := step_sequencer h ht
      have hu : u.host = [] := by rw [hst.host_eq, State.tick, hh]
      have hlt := hst.stepsLeft_lt hp
      obtain ⟨t, hrun, hidle, hd⟩ := ih (hst.keeps_inv h ht) hu (by omega)
      refine ⟨t, (core_run_succ n hs).trans hrun, hidle, fun _ => hd ?_⟩
      rw [← hst.idle_iff_done hdone]
      exact (em (u.phase = .idle)).symm

/-- Settles O55: `State.stepsLeft` falls in every step of the sequencer, and is at most HEIGHT + 2. -/
theorem commandsComplete : Obligations.CommandsComplete := by
  intro s h hh
  obtain ⟨t, hrun, hp, hd⟩ := core_run_completes h hh s.stepsLeft_le
  exact ⟨t, hrun, hp, fun hb => hd (.inl hb)⟩

end Sys2Proof.Machine
end

section
/-! The registers and the turns of the host and the sequencer (10_state.md R20 to R46): what a register access does at each
offset, an acceptance, the interrupt, and whose turn it is. -/

namespace Sys2Proof.Machine

/-! ### Turns -/

/-- The event does not come before every sequencer step: no access has to observe BUSY = 1, or it is a write, or an interrupt
that there will be (10_state.md R42; log 22). -/
theorem State.hostFirst_eq_false_iff {s : State} {e : HostEvent} :
    s.hostFirst e = false ↔ (s.justAccepted = true →
      (∀ t : Txn, e = .access t → t.dir = .write) ∧ (e = .interrupt → s.irqEn = true)) := by
  have hdir : ∀ d : Dir, ¬ d = .read ↔ d = .write := by intro d; cases d <;> simp
  unfold State.hostFirst
  cases hj : s.justAccepted with
  | false => simp
  | true => cases e <;> simp [hdir]

/-- Whose turn it is while the host has an event to come (R20, R42). -/
theorem State.turn_cons {s : State} {p : Pending} {rest : List Pending} (hh : s.host = p :: rest) :
    s.turn = if s.busy && decide (0 < p.after) && !s.hostFirst p.event then .sequencer else .host p rest := by
  simp only [State.turn, hh]

/-- It is the sequencer's turn exactly when a command is in flight and the host's next event, if there is one, still waits. -/
theorem State.turn_sequencer_iff (s : State) :
    s.turn = .sequencer ↔
      s.phase ≠ .idle ∧ (s.host = [] ∨ ∃ (p : Pending) (rest : List Pending), s.host = p :: rest ∧ 0 < p.after ∧
        (s.justAccepted = true →
          (∀ t : Txn, p.event = .access t → t.dir = .write) ∧ (p.event = .interrupt → s.irqEn = true))) := by
  rw [← State.busy_eq_true_iff]
  cases hh : s.host with
  | nil => cases hb : s.busy <;> simp [State.turn, hh, hb]
  | cons p rest =>
    rw [State.turn_cons hh]
    simp [← State.hostFirst_eq_false_iff, and_assoc]

/-- What the sequencer fetches with a legal command latched (R64). -/
theorem fetch_of_command {s : State} {i : Instr} (hp : s.phase = .command) (hd : decodeCommand s.latch.word = .ok i) :
    fetch s = .instr i := by
  simp only [fetch, hp, hd]

/-- What it fetches in the row walk at a row with a legal filter-type byte (30_encoding.md R75, 41_filter.md R120). -/
theorem fetch_of_row {s : State} {i : Instr} (hp : s.phase = .rows) (hr : s.row < s.latch.height.toNat)
    (hd : decodeFilter s.filterByte = .ok i) : fetch s = .instr i := by
  simp only [fetch, hp, hr, hd, if_true]

/-- Settles O4: the step runs what is fetched, and the turn by the host queue. -/
theorem stepRunsDecodedInstruction : Obligations.StepRunsDecodedInstruction := by
  refine ⟨fun s i ht => ⟨fun hp hd => step_of_fetch_instr ht (fetch_of_command hp hd),
    fun hp hr hd => step_of_fetch_instr ht (fetch_of_row hp hr hd)⟩, fun s => ⟨s.turn_sequencer_iff, fun hh => ?_,
    fun p rest hh => ?_⟩⟩
  · rw [State.tick_eq, State.tick, hh]
    exact congrArg (fun q => { s with host := q }) hh.symm
  · rw [State.tick, hh]

/-- In a state of the invariant the read that R42 puts first meets a command in flight. -/
theorem State.busy_of_first_read {s : State} {t : Txn} {n : Nat} {rest : List Pending} (h : s.inv = true)
    (hj : s.justAccepted = true) (hd : t.dir = .read) (hh : s.host = ⟨n, .access t⟩ :: rest) : s.phase ≠ .idle := by
  intro hp
  obtain ⟨-, -, -, -, -, ha⟩ := (State.inv_idle_iff hp).mp h
  simp [State.acceptedOk, State.busy, hj, hp, hh, hd] at ha

/-- Settles O5: the host's turn by its waiting count and by `State.hostFirst`, and the two kinds of event. -/
theorem stepMakesHostTransaction : Obligations.StepMakesHostTransaction := by
  refine ⟨fun s p rest hh hw => step_of_turn_host ?_, fun s hh hp => step_of_nothing_to_do hh hp,
    fun s t n rest hj hd hh => ⟨step_of_turn_host (State.turn_of_hostFirst hh ?_),
      fun h => State.busy_of_first_read h hj hd hh⟩, fun s t => rfl, fun s => ⟨fun h => ?_, State.takeInterrupt_low⟩⟩
  · rw [State.turn_cons hh, if_neg]
    rcases hw with hp | h0
    · simp [State.busy, hp]
    · simp [h0]
  · simp [State.hostFirst, hj, hd]
  · exact State.takeInterrupt_high h

/-! ### The command words -/

/-- A word whose RSV is 0 is its OPC (30_encoding.md R70). -/
theorem setWidth_opcField {w : Word} (h : rsvField w = 0) : (opcField w).setWidth 32 = w := by
  have h' : (rsvField w).toNat = 0 := by rw [h]; rfl
  apply BitVec.eq_of_toNat_eq
  simp only [rsvField, opcField, BitVec.extractLsb'_toNat, BitVec.toNat_setWidth, Nat.shiftRight_eq_div_pow] at h' ⊢
  have := w.isLt
  omega

theorem encode_of_mem_commandTable : ∀ r ∈ commandTable, encode r.2 = .command (r.1.setWidth 32) := by decide

/-- A word decodes only to the command it encodes (R71, R72). -/
theorem encode_of_decodeCommand {w : Word} {i : Instr} (h : decodeCommand w = .ok i) : encode i = .command w := by
  unfold decodeCommand lookupCode at h
  split at h
  · rename_i hrsv
    cases hf : commandTable.find? (fun r => r.1 == opcField w) with
    | none => simp [hf] at h
    | some r =>
      have hopc : r.1 = opcField w := by simpa using List.find?_some hf
      simp only [hf, Option.map_some, Except.ok.injEq] at h
      have hw : r.1.setWidth 32 = w := by rw [hopc, setWidth_opcField (by simpa using hrsv)]
      rw [← h, ← hw]
      exact encode_of_mem_commandTable r (List.mem_of_find?_eq_some hf)
  · cases h

/-- The words of the six commands with a destination region (10_state.md R47). -/
theorem hasDestination_iff {w : Word} :
    hasDestination w = true ↔ w ∈ [0x01, 0x02, 0x11, 0x21, 0x23, (0x25 : Word)] := by
  constructor
  · intro h
    cases hd : decodeCommand w with
    | error e => simp [hasDestination, hd] at h
    | ok i =>
      have hw := encode_of_decodeCommand hd
      cases i with
      | mapB2g | mapG2b | fltRecon | chkScan | chkIdat | chkInspad => cases hw; decide
      | chkHdr | chkPlen | ftNone | ftSub | ftUp | ftAverage | ftPaeth => simp [hasDestination, hd] at h
  · intro h
    simp only [List.mem_cons, List.not_mem_nil, or_false] at h
    rcases h with rfl | rfl | rfl | rfl | rfl | rfl <;> rfl

/-! ### Register writes -/

/-- A register write that takes effect only while BUSY = 0, made then (10_state.md R61). -/
theorem State.hostAccess_write_idle {s : State} (hp : s.phase = .idle) (off : BitVec 8) (v : Word) (t : State)
    (h4 : off.toNat % 4 = 0) (hw : s.writeReg (regOfOffset off) v = s.ifIdle t) :
    s.hostAccess ⟨.write, .reg off, .w32, v⟩ = t.respond .ack := by
  rw [State.hostAccess_regWrite s off v h4, hw, State.ifIdle_idle ((State.busy_eq_false_iff s).mpr hp)]

/-- A write of CTRL (R25), busy or not. -/
theorem State.hostAccess_writeCtrl (s : State) (v : Word) :
    s.hostAccess ⟨.write, .reg 0x0C, .w32, v⟩ = (s.writeCtrl v).respond .ack :=
  State.hostAccess_regWrite s 0x0C v (by decide)

/-- A write of STATUS (R27), busy or not. -/
theorem State.hostAccess_writeStatus (s : State) (v : Word) :
    s.hostAccess ⟨.write, .reg 0x14, .w32, v⟩ = (s.clearStatus v).respond .ack :=
  State.hostAccess_regWrite s 0x14 v (by decide)

/-- A write of CMD while BUSY = 0 is the acceptance (R42). -/
theorem State.hostAccess_writeCmd {s : State} (hp : s.phase = .idle) (w : Word) :
    s.hostAccess ⟨.write, .reg 0x10, .w32, w⟩ = (s.accept w).respond .ack :=
  State.hostAccess_write_idle hp 0x10 w (s.accept w) (by decide) rfl

/-- A write of CTRL with SRST = 0 is a write of IRQ_EN (R25). -/
theorem State.writeCtrl_irqEn {s : State} {v : Word} (h : v.getLsbD 1 = false) :
    s.writeCtrl v = { s with irqEn := v.getLsbD 0 } := by
  rw [State.writeCtrl, h, if_neg Bool.false_ne_true]

/-- Settles O10: the acceptance, whose destination regions are those of six words. -/
theorem acceptanceStep : Obligations.AcceptanceStep := by
  intro s w hp
  rw [State.hostAccess_writeCmd hp, State.accept]
  simp only [hasDestination_iff]
  rfl

/-- Settles O11: each operand register's own write. -/
theorem operandWritesWhileIdle : Obligations.OperandWritesWhileIdle := by
  intro s v hp
  refine ⟨State.hostAccess_write_idle hp 0x20 v { s with srcAddr := v } (by decide) rfl,
    State.hostAccess_write_idle hp 0x24 v { s with srcLen := v } (by decide) rfl,
    State.hostAccess_write_idle hp 0x28 v { s with dstAddr := v } (by decide) rfl,
    State.hostAccess_write_idle hp 0x2C v { s with dstCap := v } (by decide) rfl,
    State.hostAccess_write_idle hp 0x34 v { s with width := v, old := { s.old with width := none } } (by decide) rfl,
    State.hostAccess_write_idle hp 0x38 v { s with height := v, old := { s.old with height := none } } (by decide) rfl,
    State.hostAccess_write_idle hp 0x3C v { s with padLen := v, old := { s.old with padLen := none } } (by decide) rfl,
    fun h => ?_⟩
  rw [State.hostAccess_writeCtrl, State.writeCtrl_irqEn h]
  rfl

/-- Settles O14: `State.clearStatus` clears a bit exactly where a 1 is written. -/
theorem statusWriteOneToClear : Obligations.StatusWriteOneToClear := by
  intro s v
  have hclear : ∀ a b : Bool, (a && !b) = if b then false else a := by decide
  rw [State.hostAccess_writeStatus, State.clearStatus]
  simp only [hclear]
  rfl

/-! ### The interrupt -/

theorem State.irq_iff {s : State} : s.irq = true ↔ s.irqEn = true ∧ s.done = true := Bool.and_eq_true_iff

theorem State.irq_of_not_done {s : State} (h : s.done = false) : s.irq = false := by
  simp [State.irq, h]

theorem State.irq_of_not_irqEn {s : State} (h : s.irqEn = false) : s.irq = false := by
  simp [State.irq, h]

/-- After a write of CTRL with bit 0 clear IRQ_EN is 0, soft reset or not (R25, R46). -/
theorem State.writeCtrl_clears_irqEn {s : State} {v : Word} (h : v.getLsbD 0 = false) :
    (s.writeCtrl v).irqEn = false := by
  unfold State.writeCtrl
  split
  · rfl
  · exact h

/-- Settles O20: IRQ is IRQ_EN and DONE, and each event that lowers it clears one of the two. -/
theorem interruptLevel : Obligations.InterruptLevel := by
  intro s v
  refine ⟨State.irq_iff, rfl, fun r => ?_, fun h => ?_, fun h => ?_, fun hp => ?_, rfl⟩
  · rw [State.irq, State.finish_done, State.finish_irqEn, Bool.and_true]
  · rw [State.hostAccess_writeStatus]
    exact State.irq_of_not_done (by simp [h])
  · rw [State.hostAccess_writeCtrl]
    exact State.irq_of_not_irqEn (State.writeCtrl_clears_irqEn h)
  · rw [State.hostAccess_writeCmd hp]
    exact State.irq_of_not_done rfl

/-! ### Register reads and the reserved offsets -/

/-- Each register stands at its own offset alone (R21). -/
theorem offset_of_regOfOffset {off : BitVec 8} {r : Reg} (h : regOfOffset off = some r) : off = r.offset := by
  unfold regOfOffset at h
  split at h <;> cases h <;> exact BitVec.eq_of_toNat_eq ‹_›

/-- No register stands at a reserved offset (R39). -/
theorem regOfOffset_of_reserved {off : BitVec 8} (h : 0x44 ≤ off.toNat) : regOfOffset off = none := by
  cases hr : regOfOffset off with
  | none => rfl
  | some r =>
    have hlt : r.offset.toNat < 0x44 := by cases r <;> decide
    rw [offset_of_regOfOffset hr] at h
    omega

/-- A read of a register other than STATUS answers and changes nothing (20_memory.md R58). -/
theorem State.hostAccess_read_of_ne {s : State} {off : BitVec 8} (d : Word) (h4 : off.toNat % 4 = 0)
    (hne : regOfOffset off ≠ some .status) :
    s.hostAccess ⟨.read, .reg off, .w32, d⟩ =
      { s with responses := .data (s.readReg (regOfOffset off)) :: s.responses } := by
  rw [State.hostAccess_regRead s off d h4, State.afterRead_of_ne hne]
  rfl

/-- A read of STATUS answers, and may be the observation of BUSY = 0 (20_memory.md R60). -/
theorem State.hostAccess_readStatus (s : State) (d : Word) :
    s.hostAccess ⟨.read, .reg 0x14, .w32, d⟩ =
      s.observeStatus.respond (.data (s.readReg (regOfOffset 0x14))) :=
  State.hostAccess_regRead s 0x14 d (by decide)

/-- The bits of CTRL as the host reads it (R25). -/
theorem State.ctrlWord_getLsbD (s : State) (k : Nat) : s.ctrlWord.getLsbD k = (decide (k = 0) && s.irqEn) := by
  change BitVec.getLsbD (w := 31 + 1) (0#31 ++ BitVec.ofBool s.irqEn) k = _
  rw [BitVec.getLsbD_append]
  by_cases hk : k = 0 <;> simp [hk]

/-- The bits of STATUS as the host reads it (R27). -/
theorem State.statusWord_getLsbD (s : State) (k : Nat) :
    s.statusWord.getLsbD k =
      match k with
      | 0 => s.busy
      | 1 => s.done
      | 2 => s.err
      | 3 => s.ovr
      | _ => false := by
  change BitVec.getLsbD (w := 28 + 1 + 1 + 1 + 1)
    (0#28 ++ BitVec.ofBool s.ovr ++ BitVec.ofBool s.err ++ BitVec.ofBool s.done ++ BitVec.ofBool s.busy) k = _
  simp only [BitVec.getLsbD_append]
  match k with
  | 0 | 1 | 2 | 3 => simp
  | k + 4 => simp

/-- Settles O12: a read answers with what stands at its offset, and a STATUS read may be the observation. -/
theorem registerReads : Obligations.RegisterReads := by
  intro s
  refine ⟨fun off d h4 hne => State.hostAccess_read_of_ne d h4 fun hr => hne (offset_of_regOfOffset hr),
    fun d h => ?_, fun d hp hd => ?_, rfl, rfl, rfl, s.ctrlWord_getLsbD, rfl, fun k => ?_, rfl, rfl, rfl, rfl, rfl, rfl,
    rfl, rfl, rfl, rfl, rfl⟩
  · have hseen : (!s.busy || s.done) = true := by
      rcases h with hp | hd
      · simp [State.busy, hp]
      · simp [hd]
    rw [State.hostAccess_readStatus, State.observeStatus, if_pos hseen]
    rfl
  · rw [State.hostAccess_readStatus, State.observeStatus, if_neg (by simp [State.busy, hp, hd])]
    rfl
  · have hb : s.busy = decide (s.phase ≠ .idle) := by cases hp : s.phase <;> simp [State.busy, hp]
    rw [← hb]
    exact s.statusWord_getLsbD k

/-- Settles O13: no register stands at a reserved offset, and a read-only register keeps its value. -/
theorem reservedAndReadOnly : Obligations.ReservedAndReadOnly := by
  intro s off v h4
  refine ⟨fun h => ?_, fun h => ?_⟩
  · have hr := regOfOffset_of_reserved h
    rw [State.hostAccess_read_of_ne v h4 (by simp [hr]), hr]
    rfl
  · have hw : s.writeReg (regOfOffset off) v = s := by
      rcases h with h | h
      · rw [regOfOffset_of_reserved h]
        rfl
      · simp only [List.mem_cons, List.not_mem_nil, or_false] at h
        rcases h with rfl | rfl | rfl | rfl | rfl | rfl | rfl <;> rfl
    rw [State.hostAccess_regWrite s off v h4, hw]
    rfl

end Sys2Proof.Machine
end

section
/-! The buffer memory: what the host's accesses of it do, busy or not (20_memory.md R52 to R54, R60, R61, R69), that a
sequencer step stores inside the latched destination region alone (R57), and that the machine never stops (R51). -/

namespace Sys2Proof.Machine

/-! ### The machine never stops -/

/-- Settles O54: whoever's turn it is, there is a step; the sequencer's by `step_sequencer`. -/
theorem machineNeverStops : Obligations.MachineNeverStops := by
  intro s h
  cases ht : s.turn with
  | nobody => exact ⟨s, by simp only [step, ht]⟩
  | host p rest => exact ⟨_, step_of_turn_host ht⟩
  | sequencer =>
    obtain ⟨t, hs, -⟩ := step_sequencer h ht
    exact ⟨t, hs⟩

/-! ### What the sequencer stores -/

/-- The address lies outside the destination region of the latch (R57). -/
def Latch.Outside (o : Latch) (a : Nat) : Prop := a < o.dstAddr.toNat ∨ o.dstAddr.toNat + o.dstCap.toNat ≤ a

/-- A completion with a result it may take stores inside the destination region. -/
theorem State.finish_read_outside {s : State} {r : Except Failure Commit} {a : Nat}
    (hr : SoundResult s.memSize.toNat s.latch r) (ha : s.latch.Outside a) :
    (s.finish r).mem.read a = s.mem.read a := by
  cases r with
  | error f => rfl
  | ok c => exact State.commit_read_outside s c s.memSize.toNat a hr ha

/-- The output of an FLT_RECON whose checks pass fits its destination region (41_filter.md R120). -/
theorem reconLength_le_of_fltCheck {size : Nat} {o : Latch} (hc : fltCheck size o = none) :
    reconLength o.width.toNat o.height.toNat ≤ o.dstCap.toNat :=
  (fltCheck_eq_none.mp hc).2.2

/-- A bad filter byte leaves only destination bytes unspecified (60_exceptions.md R197). -/
theorem State.invalidFilter_read_outside {s : State} {a : Nat} (hc : fltCheck s.memSize.toNat s.latch = none)
    (ha : s.latch.Outside a) : s.invalidFilter.mem.read a = s.mem.read a := by
  have hlen := reconLength_le_of_fltCheck hc
  refine State.scramble_read_outside s _ _ a ?_
  unfold Latch.Outside at ha
  omega

/-- A row of the walk is stored inside the destination region. -/
theorem State.reconstructed_read_outside {s : State} (pred : Nat → Nat → Nat → Nat) {a : Nat}
    (hc : fltCheck s.memSize.toNat s.latch = none) (hr : s.row < s.latch.height.toNat) (ha : s.latch.Outside a) :
    (s.mem.writeBytes s.reconAddr (s.reconstructed pred)).read a = s.mem.read a := by
  have hlen := reconLength_le_of_fltCheck hc
  have hrow := row_end_le (l := rowBytes s.latch.width.toNat) hr
  rw [reconLength, Nat.mul_comm] at hlen
  apply Memory.read_writeBytes_outside
  rw [State.reconstructed_length, State.reconAddr]
  unfold Latch.Outside at ha
  omega

/-- The step of a latched command word completes it, or starts the row walk of an FLT_RECON. -/
theorem step_command_cases {s t : State} (hf : s.format.wellFormed = true) (ht : s.turn = .sequencer)
    (hp : s.phase = .command) (hs : step s = .next t) :
    (∃ r, SoundResult s.memSize.toNat s.latch r ∧ t = s.tick.finish r) ∨
      t = { s.tick with phase := .rows, row := 0 } := by
  rcases fetch_command (s := s) (by simp [hp]) with ⟨i, hd, hi⟩ | ⟨e, -, hi⟩
  · rw [step_of_fetch_instr ht hi] at hs
    rcases exec_command (s := s.tick) hf hd with ⟨r, hr, he⟩ | ⟨-, -, he⟩
    · exact .inl ⟨r, hr, Host.Outcome.next.inj (hs.symm.trans he)⟩
    · exact .inr (Host.Outcome.next.inj (hs.symm.trans he))
  · simp only [step, ht, hi, State.illegalCommand_eq_finish, Host.Outcome.next.injEq] at hs
    exact .inl ⟨.error ⟨.illegalCommand, s.latch.word⟩, rfl, hs.symm⟩

/-- A sequencer step stores nothing outside the latched destination region. -/
theorem step_read_outside {s t : State} {a : Nat} (h : s.inv = true) (ht : s.turn = .sequencer)
    (hs : step s = .next t) (ha : s.latch.Outside a) : t.mem.read a = s.mem.read a := by
  have hb : s.phase ≠ .idle := (State.busy_eq_true_iff s).mp (State.turn_sequencer ht)
  obtain ⟨-, hconst, -, -, hrows, -⟩ := (State.inv_busy_iff hb).mp h
  cases hp : s.phase with
  | idle => exact absurd hp hb
  | command =>
    rcases step_command_cases (State.format_wellFormed hconst) ht hp hs with ⟨r, hr, rfl⟩ | rfl
    · exact State.finish_read_outside (s := s.tick) hr ha
    · rfl
  | rows =>
    obtain ⟨-, hc, -⟩ := (State.rowsOk_rows_iff hp).mp hrows
    cases sequencerStep_of_step h ht hs with
    | completes r hr => exact State.finish_read_outside (s := s.tick) hr ha
    | badFilter => exact State.invalidFilter_read_outside (s := s.tick) hc ha
    | starts => rfl
    | row pred _ hr => exact State.reconstructed_read_outside pred hc hr ha

/-- A completion without output bytes leaves the memory as it is. -/
theorem State.finish_mem_of_out_nil {s : State} {r : Except Failure Commit} (h : ∀ c, r = .ok c → c.out = []) :
    (s.finish r).mem = s.mem := by
  cases r with
  | error f => rfl
  | ok c => rw [State.finish_ok, State.commit_mem, h c rfl, Memory.writeBytes_nil]

/-- CHK_HDR and CHK_PLEN store nothing (R57). -/
theorem exec_mem_of_no_output {i : Instr} {s t : State} (hi : i = .chkHdr ∨ i = .chkPlen) (h : exec i s = .next t) :
    t.mem = s.mem := by
  rcases hi with rfl | rfl
  · rw [← Host.Outcome.next.inj h]
    exact State.finish_mem_of_out_nil fun _ => chkHdrResult_out
  · rw [← Host.Outcome.next.inj h]
    exact State.finish_mem_of_out_nil fun _ => chkPlenResult_out

/-- In a state of the invariant only an FLT_RECON walks rows, so every other latched command runs in the next step. -/
theorem State.phase_of_not_fltRecon {s : State} {i : Instr} (h : s.inv = true) (hb : s.phase ≠ .idle)
    (hd : decodeCommand s.latch.word = .ok i) (hi : i ≠ .fltRecon) : s.phase = .command := by
  obtain ⟨-, -, -, -, hrows, -⟩ := (State.inv_busy_iff hb).mp h
  cases hp : s.phase with
  | idle => exact absurd hp hb
  | command => rfl
  | rows =>
    have hword := ((State.rowsOk_rows_iff hp).mp hrows).1
    rw [hd] at hword
    exact absurd (Except.ok.inj hword) hi

/-- A sequencer step with CHK_HDR or CHK_PLEN latched stores nothing. -/
theorem step_mem_of_no_output {s t : State} {i : Instr} (h : s.inv = true) (ht : s.turn = .sequencer)
    (hs : step s = .next t) (hd : decodeCommand s.latch.word = .ok i) (hi : i = .chkHdr ∨ i = .chkPlen) :
    t.mem = s.mem := by
  have hb : s.phase ≠ .idle := (State.busy_eq_true_iff s).mp (State.turn_sequencer ht)
  have hp := State.phase_of_not_fltRecon h hb hd (by rcases hi with rfl | rfl <;> decide)
  rw [step_of_fetch_instr ht (fetch_of_command hp hd)] at hs
  exact exec_mem_of_no_output (s := s.tick) hi hs

/-- Settles O57: the stores of each kind of sequencer step, and the two commands without output. -/
theorem commandsWriteOnlyDestination : Obligations.CommandsWriteOnlyDestination := by
  intro s t h ht hs
  refine ⟨fun a ha => step_read_outside h ht hs ha, ?_⟩
  rintro (hd | hd)
  · exact step_mem_of_no_output h ht hs hd (.inl rfl)
  · exact step_mem_of_no_output h ht hs hd (.inr rfl)

/-! ### Bus errors -/

/-- An access the port takes gets another response than the bus error (R52, R54). -/
theorem State.hostAccess_response_of_taken {s : State} {t : Txn} (h : t.taken s.memSize.toNat = true) :
    ∃ r, r ≠ Response.busError ∧ (s.hostAccess t).responses = r :: s.responses := by
  refine ⟨(s.hostAccess t).answer, ?_, s.hostAccess_answers t⟩
  obtain ⟨dir, target, w, v⟩ := t
  unfold State.hostAccess
  rw [if_pos h]
  cases target with
  | reg off => cases dir <;> exact Response.noConfusion
  | mem a => cases dir <;> exact Response.noConfusion

/-- The port takes a register access exactly when it is 32-bit and its offset a multiple of 4 (R54). -/
theorem Txn.taken_reg (size : Nat) (off : BitVec 8) (dir : Dir) (w : Width) (v : Word) :
    Txn.taken size ⟨dir, .reg off, w, v⟩ = true ↔ w = .w32 ∧ off.toNat % 4 = 0 := by
  cases w <;> simp [Txn.taken]

/-- An access the port does not take changes nothing but the answers (R52, R54). -/
theorem State.hostAccess_of_not_taken {s : State} {t : Txn} (h : ¬ t.taken s.memSize.toNat = true) :
    s.hostAccess t = { s with responses := .busError :: s.responses } :=
  State.hostAccess_busError s t (Bool.eq_false_iff.mpr h)

/-- Settles O16: the accesses the port takes, by their target and width. -/
theorem busErrors : Obligations.BusErrors := by
  refine fun s dir v => ⟨fun a => ⟨State.hostAccess_of_not_taken Bool.false_ne_true, fun h => ?_, fun h => ?_,
    fun h => State.hostAccess_response_of_taken ((Txn.taken_mem8 ..).mpr h),
    fun h4 h => State.hostAccess_response_of_taken ((Txn.taken_mem32 ..).mpr ⟨h4, h⟩)⟩, fun off w => ⟨fun h => ?_,
    fun h4 => State.hostAccess_response_of_taken ((Txn.taken_reg ..).mpr ⟨rfl, h4⟩)⟩⟩
  · exact State.hostAccess_of_not_taken (by rw [Txn.taken_mem8]; omega)
  · exact State.hostAccess_of_not_taken (by rw [Txn.taken_mem32]; omega)
  · exact State.hostAccess_of_not_taken (by rw [Txn.taken_reg]; tauto)

/-! ### Host accesses while BUSY = 1 -/

/-- A register write that takes effect only while BUSY = 0 is dropped with OVR otherwise (R61). -/
theorem State.hostAccess_write_busy {s : State} (hb : s.busy = true) {off : BitVec 8} (v : Word)
    (h4 : off.toNat % 4 = 0) (hw : ∃ t, s.writeReg (regOfOffset off) v = s.ifIdle t) :
    s.hostAccess ⟨.write, .reg off, .w32, v⟩ = { s with ovr := true, responses := .ack :: s.responses } := by
  obtain ⟨t, hw⟩ := hw
  rw [State.hostAccess_regWrite s off v h4, hw, State.ifIdle_busy hb]
  rfl

/-- The registers whose writes take effect only while BUSY = 0: CMD and the operand registers (R61). -/
theorem State.writeReg_ifIdle (s : State) {off : BitVec 8} (v : Word)
    (h : off ∈ [0x10, 0x20, 0x24, 0x28, 0x2C, 0x34, 0x38, (0x3C : BitVec 8)]) :
    off.toNat % 4 = 0 ∧ ∃ t, s.writeReg (regOfOffset off) v = s.ifIdle t := by
  simp only [List.mem_cons, List.not_mem_nil, or_false] at h
  rcases h with rfl | rfl | rfl | rfl | rfl | rfl | rfl | rfl <;> exact ⟨by decide, _, rfl⟩

/-- A buffer write is dropped with OVR while BUSY = 1 (R61). -/
theorem State.hostAccess_memWrite_busy {s : State} (hb : s.busy = true) {a : Nat} {w : Width} {v : Word}
    (h : Txn.taken s.memSize.toNat ⟨.write, .mem a, w, v⟩ = true) :
    s.hostAccess ⟨.write, .mem a, w, v⟩ = { s with ovr := true, responses := .ack :: s.responses } := by
  rw [State.hostAccess_memWrite s a w v h, State.writeBuffer, State.ifIdle_busy hb]
  rfl

/-- A buffer read one of whose bytes is hidden counts one draw a byte (R60, R61; log 6). -/
theorem State.hostAccess_memRead_hidden {s : State} {a k : Nat} {w : Width} {d : Word}
    (h : Txn.taken s.memSize.toNat ⟨.read, .mem a, w, d⟩ = true) (hk : k < w.bytes)
    (hh : s.hidden (a + k) = true) :
    s.hostAccess ⟨.read, .mem a, w, d⟩ =
      { s with
        responses := .data (busValue ((List.range w.bytes).map (s.busByte a))) :: s.responses
        draws := s.draws + w.bytes } := by
  rw [State.hostAccess_memRead s a w d h, State.readBuffer, State.busDraws_of_hidden hk hh]
  rfl

/-- Settles O15: each row of R61's table is one kind of access. -/
theorem hostAccessWhileBusy : Obligations.HostAccessWhileBusy := by
  intro s hp
  have hb : s.busy = true := (State.busy_eq_true_iff s).mpr hp
  obtain ⟨hread, -, hstatus, -⟩ := registerReads s
  refine ⟨fun off d h4 hd => ?_, fun h => ?_, fun v hv => ?_, fun v hv => ?_, fun v => s.hostAccess_writeStatus v,
    fun off v ho => ?_, fun off v h4 => (reservedAndReadOnly s off v h4).2,
    fun a v ha => ?_, fun a v h4 ha => ?_⟩
  · by_cases ho : off = 0x14
    · subst ho
      exact hstatus d hp (hd rfl)
    · exact hread off d h4 ho
  · obtain ⟨-, -, ⟨hdone, -⟩, -, -, hold, -⟩ := (State.inv_busy_iff hp).mp h
    have hreg := State.readReg_of_results hold
    exact ⟨hdone, hreg _, hreg _, hreg _, hreg _, hreg _⟩
  · rw [State.hostAccess_writeCtrl, State.writeCtrl_irqEn hv]
    rfl
  · rw [State.hostAccess_writeCtrl, State.writeCtrl, if_pos hv]
    rfl
  · obtain ⟨h4, hw⟩ := s.writeReg_ifIdle v ho
    exact State.hostAccess_write_busy hb v h4 hw
  · have htaken := fun dir => (Txn.taken_mem8 s.memSize.toNat a dir v).mpr ha
    exact ⟨State.hostAccess_memWrite_busy hb (htaken .write), s.busByte a 0,
      State.hostAccess_memRead_hidden (htaken .read) (k := 0) (by decide) (State.hidden_of_busy hb _)⟩
  · have htaken := fun dir => (Txn.taken_mem32 s.memSize.toNat a dir v).mpr ⟨h4, ha⟩
    exact ⟨State.hostAccess_memWrite_busy hb (htaken .write), _,
      State.hostAccess_memRead_hidden (htaken .read) (k := 0) (by decide) (State.hidden_of_busy hb _)⟩

/-! ### The buffer while BUSY = 0 -/

/-- A buffer write while BUSY = 0 stores the bytes of its lanes, takes them out of the unseen regions and changes nothing else
(R52, R69). -/
theorem State.hostAccess_memWrite_idle {s : State} (hb : s.busy = false) {a : Nat} {w : Width} {v : Word}
    (h : Txn.taken s.memSize.toNat ⟨.write, .mem a, w, v⟩ = true) :
    s.hostAccess ⟨.write, .mem a, w, v⟩ =
      { s with
        mem := s.mem.writeBytes a (busBytes w v)
        unseen := s.unseen.flatMap (fun r => r.without a w.bytes)
        responses := .ack :: s.responses } := by
  rw [State.hostAccess_memWrite s a w v h, State.writeBuffer, State.ifIdle_idle hb]
  rfl

/-- The unseen bytes after a buffer write while BUSY = 0 are those of before without the bytes written (R69). -/
theorem unseen_without_iff {s : State} (hb : s.busy = false) (a : Nat) (w : Width) (x : Nat) :
    (∃ g ∈ s.unseen.flatMap (fun r => r.without a w.bytes), g.addr ≤ x ∧ x < g.addr + g.len) ↔
      (∃ g ∈ s.unseen, g.addr ≤ x ∧ x < g.addr + g.len) ∧ (x < a ∨ a + w.bytes ≤ x) := by
  have h := State.writeBuffer_hidden hb a w 0 x
  rw [State.writeBuffer, State.ifIdle_idle hb] at h
  rwa [State.hidden_of_idle hb, State.hidden_of_idle (by exact hb)] at h

/-- A buffer read whose bytes are all visible draws nothing. -/
theorem State.hostAccess_memRead_visible {s : State} {a : Nat} {w : Width} {d : Word}
    (h : Txn.taken s.memSize.toNat ⟨.read, .mem a, w, d⟩ = true)
    (hv : ∀ k, k < w.bytes → s.hidden (a + k) = false) :
    s.hostAccess ⟨.read, .mem a, w, d⟩ =
      { s with responses := .data (busValue ((List.range w.bytes).map (s.busByte a))) :: s.responses } := by
  rw [State.hostAccess_memRead s a w d h, State.readBuffer, State.busDraws_of_visible hv]
  rfl

/-- What an 8-bit write stores: the byte in bits 7:0 of its data, at its address (R53, log 19). -/
theorem read_writeBytes_byte (m : Memory) (a : Nat) (b : Byte) (x : Nat) :
    (m.writeBytes a (busBytes .w8 (b.setWidth 32))).read x = if x = a then b else m.read x := by
  have hb : (b.setWidth 32).extractLsb' 0 8 = b := by
    have := b.isLt
    apply BitVec.eq_of_toNat_eq
    simp only [BitVec.extractLsb'_toNat, BitVec.toNat_setWidth, Nat.shiftRight_zero]
    omega
  have hbytes : busBytes .w8 (b.setWidth 32) = [b] := congrArg (fun c => [c]) hb
  rw [hbytes, Memory.writeBytes_cons, Memory.writeBytes_nil, Memory.read_write]

/-- An 8-bit answer is the byte's value (R53, log 19). -/
theorem busValue_byte (f : Nat → Byte) : (busValue ((List.range 1).map f)).toNat = (f 0).toNat := by
  have hw : busValue ((List.range 1).map f) = (f 0).setWidth 32 := rfl
  rw [hw, BitVec.toNat_setWidth_of_le (by decide)]

/-- The lanes of a bus word, the first byte on bits 7:0 (R53). -/
theorem laneWord_toNat (b0 b1 b2 b3 : Byte) :
    (laneWord b0 b1 b2 b3).toNat = b0.toNat + 2 ^ 8 * b1.toNat + 2 ^ 16 * b2.toNat + 2 ^ 24 * b3.toNat := by
  have := b0.isLt; have := b1.isLt; have := b2.isLt
  simp only [laneWord, BitVec.toNat_append]
  rw [← Nat.shiftLeft_add_eq_or_of_lt (by omega), ← Nat.shiftLeft_add_eq_or_of_lt (by omega),
    ← Nat.shiftLeft_add_eq_or_of_lt (by omega)]
  simp only [Nat.shiftLeft_eq]
  omega

/-- Lane `k` of a 32-bit answer is byte `k` of the access (R53). -/
theorem busValue_lane (f : Nat → Byte) {k : Nat} (hk : k < 4) :
    (busValue ((List.range 4).map f)).toNat / 2 ^ (8 * k) % 2 ^ 8 = (f k).toNat := by
  have := (f 0).isLt; have := (f 1).isLt; have := (f 2).isLt; have := (f 3).isLt
  have hw : busValue ((List.range 4).map f) = laneWord (f 0) (f 1) (f 2) (f 3) := rfl
  rw [hw, laneWord_toNat]
  match k, hk with
  | 0, _ | 1, _ | 2, _ | 3, _ => omega

/-- What a 32-bit write stores at byte `k` of the access: lane `k` of the word (R53). -/
theorem read_writeBytes_lane (m : Memory) (a : Nat) (v : Word) {k : Nat} (hk : k < 4) :
    ((m.writeBytes a (busBytes .w32 v)).read (a + k)).toNat = v.toNat / 2 ^ (8 * k) % 2 ^ 8 := by
  rw [Memory.read_writeBytes_inside _ _ _ _ (by simpa [Width.bytes] using hk)]
  match k, hk with
  | 0, _ | 1, _ | 2, _ | 3, _ =>
    simp [busBytes, laneBytes, Width.bytes, BitVec.extractLsb'_toNat, Nat.shiftRight_eq_div_pow]

/-- Settles O17: the four kinds of buffer access while BUSY = 0, a byte of an unseen region being a hidden one. -/
theorem bufferReadsAndWrites : Obligations.BufferReadsAndWrites := by
  intro s a v b hp anyValue
  have hb : s.busy = false := (State.busy_eq_false_iff s).mpr hp
  have hhid : ∀ x, anyValue x → s.hidden x = true := fun x => (State.hidden_of_idle hb x).mpr
  have hvis : ∀ x, ¬ anyValue x → s.hidden x = false := fun x hx =>
    Bool.eq_false_iff.mpr fun hh => hx ((State.hidden_of_idle hb x).mp hh)
  refine ⟨fun ha => ?_, fun h4 ha => ?_⟩
  · have htaken := fun dir v => (Txn.taken_mem8 s.memSize.toNat a dir v).mpr ha
    have hmem := read_writeBytes_byte s.mem a b
    refine ⟨⟨_, State.hostAccess_memWrite_idle hb (htaken .write _), rfl, (hmem a).trans (if_pos rfl),
      fun x hx => (hmem x).trans (if_neg hx), fun x => ?_⟩, fun hx => ?_, fun hx => ?_⟩
    · refine (unseen_without_iff hb a .w8 x).trans (and_congr_right' ?_)
      simp only [Width.bytes]
      omega
    · refine ⟨_, State.hostAccess_memRead_visible (htaken .read _) fun k hk => ?_, ?_⟩
      · obtain rfl : k = 0 := Nat.lt_one_iff.mp hk
        exact hvis a hx
      · exact (busValue_byte _).trans (congrArg BitVec.toNat (State.busByte_of_visible (k := 0) (hvis a hx)))
    · exact ⟨s.busByte a 0, State.hostAccess_memRead_hidden (htaken .read _) (k := 0) (by decide) (hhid a hx)⟩
  · have htaken := fun dir => (Txn.taken_mem32 s.memSize.toNat a dir v).mpr ⟨h4, ha⟩
    have hlane := fun k (hk : k < 4) => read_writeBytes_lane s.mem a v hk
    refine ⟨⟨_, State.hostAccess_memWrite_idle hb (htaken .write), rfl, ?_, hlane 1 (by decide), hlane 2 (by decide),
      ?_, fun x hx => ?_, fun x => unseen_without_iff hb a .w32 x⟩, _, _, State.hostAccess_memRead s a .w32 v (htaken .read),
      fun k hk hx => ?_, fun hx => ?_, fun k hk hx => ?_⟩
    · simpa using hlane 0 (by decide)
    · have := hlane 3 (by decide)
      have := v.isLt
      dsimp only
      omega
    · exact Memory.read_writeBytes_outside _ _ _ _ (by simpa [Width.bytes] using hx)
    · rw [← State.busByte_of_visible (hvis _ hx)]
      exact busValue_lane (s.busByte a) hk
    · exact State.busDraws_of_visible fun k hk => hvis _ (hx k hk)
    · exact State.busDraws_of_hidden hk (hhid _ hx)

end Sys2Proof.Machine
end

section
/-! The encodings (30_encoding.md R70 to R77): the decoder undoes the encoder, and a word or byte that encodes no instruction
is refused by name. -/

namespace Sys2Proof.Machine

/-- Every instruction is well formed, so is its encoding, and that decodes to the instruction (R71, R76). -/
theorem roundTrip : ∀ i : Instr, Laws.RoundTrip.Statement i
  | .mapB2g => Laws.RoundTrip.mapB2g
  | .mapG2b => Laws.RoundTrip.mapG2b
  | .fltRecon => Laws.RoundTrip.fltRecon
  | .chkScan => Laws.RoundTrip.chkScan
  | .chkHdr => Laws.RoundTrip.chkHdr
  | .chkIdat => Laws.RoundTrip.chkIdat
  | .chkPlen => Laws.RoundTrip.chkPlen
  | .chkInspad => Laws.RoundTrip.chkInspad
  | .ftNone => Laws.RoundTrip.ftNone
  | .ftSub => Laws.RoundTrip.ftSub
  | .ftUp => Laws.RoundTrip.ftUp
  | .ftAverage => Laws.RoundTrip.ftAverage
  | .ftPaeth => Laws.RoundTrip.ftPaeth

@[simp] theorem decode_encode (i : Instr) : decode (encode i) = .ok i := (roundTrip i).2.2

@[simp] theorem encode_wellFormed (i : Instr) : (encode i).wellFormed = true := (roundTrip i).2.1

@[simp] theorem instr_wellFormed (i : Instr) : i.wellFormed = true := (roundTrip i).1

/-! ### Command words -/

/-- A word decodes to `i` exactly when it is the encoding of `i` (R71, R72). -/
theorem decodeCommand_eq_ok_iff {w : Word} {i : Instr} : decodeCommand w = .ok i ↔ encode i = .command w := by
  refine ⟨encode_of_decodeCommand, fun h => ?_⟩
  have hd := decode_encode i
  rwa [h] at hd

/-- The one refusal of a command word (R72). -/
theorem decodeCommand_error {w : Word} {e : Reject} (h : decodeCommand w = .error e) : e = .illegalCommand w := by
  unfold decodeCommand at h
  split at h
  · split at h
    · cases h
    · cases h; rfl
  · cases h; rfl

/-- A word that encodes no instruction is refused as illegal (R72). -/
theorem decodeCommand_of_not_encoding {w : Word} (h : ∀ i, encode i ≠ .command w) :
    decodeCommand w = .error (.illegalCommand w) := by
  cases hd : decodeCommand w with
  | ok i => exact absurd (decodeCommand_eq_ok_iff.mp hd) (h i)
  | error e => rw [decodeCommand_error hd]

/-! ### Filter-type bytes -/

/-- What a lookup finds is a row of the table. -/
theorem mem_of_lookupCode {table : List (Byte × Instr)} {b : Byte} {i : Instr} (h : lookupCode table b = some i) :
    (b, i) ∈ table := by
  obtain ⟨⟨a, j⟩, hf, rfl⟩ := Option.map_eq_some_iff.mp h
  obtain rfl : a = b := by simpa using List.find?_some hf
  exact List.mem_of_find?_eq_some hf

theorem encode_of_mem_filterTable : ∀ r ∈ filterTable, encode r.2 = .filter r.1 := by decide

/-- What the decoder says of a filter-type byte: its row of the table, or the refusal by name (R75 to R77). -/
theorem decodeFilter_cases (b : Byte) :
    (∃ i, (b, i) ∈ filterTable ∧ decodeFilter b = .ok i) ∨ decodeFilter b = .error (.invalidFilter b) := by
  unfold decodeFilter
  cases hl : lookupCode filterTable b with
  | none => exact .inr rfl
  | some i => exact .inl ⟨i, mem_of_lookupCode hl, rfl⟩

/-- A byte decodes to `i` exactly when it is the encoding of `i` (R76, R77). -/
theorem decodeFilter_eq_ok_iff {b : Byte} {i : Instr} : decodeFilter b = .ok i ↔ encode i = .filter b := by
  constructor
  · intro h
    rcases decodeFilter_cases b with ⟨j, hj, hok⟩ | herr
    · cases hok.symm.trans h
      exact encode_of_mem_filterTable (b, i) hj
    · cases herr.symm.trans h
  · intro h
    have hd := decode_encode i
    rwa [h] at hd

/-- A byte above 4 is no encoding, so it is refused as an invalid filter (R77). -/
theorem decodeFilter_of_five_le {b : Byte} (h : 5 ≤ b.toNat) : decodeFilter b = .error (.invalidFilter b) := by
  rcases decodeFilter_cases b with ⟨i, -, hok⟩ | herr
  · have hwf := encode_wellFormed i
    rw [decodeFilter_eq_ok_iff.mp hok] at hwf
    have hle : b.toNat ≤ 4 := of_decide_eq_true hwf
    omega
  · exact herr

/-- Settles O3: each clause is a lemma about one of the two decoders. -/
theorem encodingsDecodeExactly : Obligations.EncodingsDecodeExactly :=
  ⟨fun _ _ => decodeCommand_eq_ok_iff, fun _ => decodeCommand_of_not_encoding,
    fun _ _ => decodeFilter_eq_ok_iff, fun _ => decodeFilter_of_five_le⟩

/-- Settles O2: the round trip and the well-formedness of each of the thirteen instructions. -/
theorem encodeThenDecode : Obligations.EncodeThenDecode :=
  fun i => ⟨decode_encode i, encode_wellFormed i, instr_wellFormed i⟩

/-- Settles O1: the twenty fixed words, each evaluated by the decoder of its length. -/
theorem decoderReadsTableWords : Obligations.DecoderReadsTableWords := by
  unfold Obligations.DecoderReadsTableWords
  decide

end Sys2Proof.Machine
end

section
/-! The parse of a container as a tiling (30_encoding.md R81, R83, R84; 42_chunk.md R151): the loop of the parse returns exactly
the chunks that stand back to back from its offset to the end. -/

namespace Sys2Proof.Machine

/-- The first chunk of a tiling is the one whose frame stands at its offset. -/
theorem chunksTile_cons_iff {c : List Byte} {p q : Nat} {e : Chunk} {es : List Chunk} :
    chunksTile c p (e :: es) q ↔
      e = ⟨p, be32At c p, tagAt c p⟩ ∧ p + 12 + be32At c p ≤ c.length ∧ chunksTile c (p + 12 + be32At c p) es q := by
  obtain ⟨offset, length, tag⟩ := e
  simp only [chunksTile, Chunk.mk.injEq]
  constructor
  · rintro ⟨rfl, rfl, rfl, hfits, hrest⟩
    exact ⟨⟨rfl, rfl, rfl⟩, hfits, hrest⟩
  · rintro ⟨⟨rfl, rfl, rfl⟩, hfits, hrest⟩
    exact ⟨rfl, rfl, rfl, hfits, hrest⟩

/-- The loop ends at the end of the container, with whatever fuel is left. -/
theorem parseFrom_end {c : List Byte} {p : Nat} (fuel : Nat) (h : c.length ≤ p) : parseFrom c fuel p = .ok [] := by
  cases fuel with
  | zero => rfl
  | succ fuel => rw [parseFrom, if_pos h]

/-- The loop takes a complete chunk and goes on after it (R151). -/
theorem parseFrom_chunk {c : List Byte} {p : Nat} (fuel : Nat) (h : p + 12 + be32At c p ≤ c.length) :
    parseFrom c (fuel + 1) p =
      (parseFrom c fuel (p + 12 + be32At c p)).map (fun rest => ⟨p, be32At c p, tagAt c p⟩ :: rest) := by
  rw [parseFrom, if_neg (by omega), if_neg (by omega), if_neg (by omega)]

/-- What the loop returns tiles the container from `p` to its end, if the fuel reaches that far. -/
theorem chunksTile_of_parseFrom {c : List Byte} {fuel p : Nat} {cs : List Chunk} (hp : p ≤ c.length)
    (hfuel : c.length ≤ p + fuel) (h : parseFrom c fuel p = .ok cs) : chunksTile c p cs c.length := by
  induction fuel generalizing p cs with
  | zero =>
    cases h
    exact Nat.le_antisymm hp hfuel
  | succ fuel ih =>
    rcases parseFrom_ok h with ⟨rfl, hend⟩ | ⟨rest, rfl, hfits, hrest⟩
    · exact Nat.le_antisymm hp hend
    · exact chunksTile_cons_iff.mpr ⟨rfl, hfits, ih hfits (by omega) hrest⟩

/-- The loop returns every tiling of the container from `p` to its end, if the fuel reaches that far. -/
theorem parseFrom_of_chunksTile {c : List Byte} {fuel p : Nat} {cs : List Chunk} (hfuel : c.length ≤ p + fuel)
    (h : chunksTile c p cs c.length) : parseFrom c fuel p = .ok cs := by
  induction cs generalizing fuel p with
  | nil => exact parseFrom_end fuel (Nat.le_of_eq h.symm)
  | cons e es ih =>
    obtain ⟨rfl, hfits, hrest⟩ := chunksTile_cons_iff.mp h
    cases fuel with
    | zero => omega
    | succ fuel =>
      rw [parseFrom_chunk fuel hfits, ih (by omega) hrest]
      rfl

/-- A parse that succeeds is a signature and a successful loop from offset 8 on (R151, R152). -/
theorem parse_eq_ok_iff {f : ContainerFormat} {c : List Byte} {cs : List Chunk} :
    parse f c = .ok cs ↔ 8 ≤ c.length ∧ c.take 8 = f.sig ∧ parseFrom c c.length 8 = .ok cs := by
  refine ⟨parse_ok, fun ⟨hlen, hsig, hloop⟩ => ?_⟩
  rw [parse, if_neg (by omega), if_neg (by simp [hsig]), hloop]

/-- Settles O41: the loop from offset 8 on against the tiling from there, in both directions. -/
theorem parseTilesContainer : Obligations.ParseTilesContainer := by
  intro f c cs
  rw [parse_eq_ok_iff]
  refine and_congr_right fun hlen => and_congr_right fun _ => ?_
  exact ⟨chunksTile_of_parseFrom hlen (by omega), parseFrom_of_chunksTile (by omega)⟩

end Sys2Proof.Machine
end

section
/-! The descriptors CHK_SCAN stores (30_encoding.md R88, 42_chunk.md R157): a chunk command after its region checks and its
parse, the capacity check on an output (60_exceptions.md R194), and what a commit stores. -/

namespace Sys2Proof.Machine

/-- The region checks of a state whose regions are in order find nothing (60_exceptions.md R192, R193). -/
theorem checkRegions_of_regionsOk {s : State} (h : s.regionsOk = true) :
    checkRegions s.memSize.toNat s.latch = none := by
  simp only [State.regionsOk, Bool.and_eq_true, Bool.not_eq_true'] at h
  obtain ⟨⟨hsrc, hdst⟩, hapart⟩ := h
  exact checkRegions_eq_none.mpr ⟨hsrc, hdst, hapart⟩

/-- A chunk command whose region check passes and whose source parses comes to its own part (42_chunk.md R150, R156). -/
theorem chunkResult_of_parse {f : ContainerFormat} {c : List Byte} {cs : List Chunk} (hp : parse f c = .ok cs)
    (own : List Chunk → Except Failure Commit) :
    chunkResult f none c own =
      (own cs).map (fun k => { k with chunkCount := some (BitVec.ofNat 32 cs.length) }) := by
  rw [chunkResult, hp]

/-- An output within the capacity is committed with its length (R194). -/
theorem outputOf_of_le {o : Latch} {n : Nat} (out : List Byte) (h : n ≤ o.dstCap.toNat) :
    outputOf o n out = .ok { out := out, dstLen := some (BitVec.ofNat 32 n) } :=
  if_neg (by omega)

/-- An output beyond the capacity is an overflow with its length (R194). -/
theorem outputOf_of_lt {o : Latch} {n : Nat} (out : List Byte) (h : o.dstCap.toNat < n) :
    outputOf o n out = .error ⟨.dstOverflow, sat32 n⟩ :=
  if_pos h

/-- A byte string written to the memory is stored there, and every other byte is as before. -/
theorem Memory.stores_writeBytes (m : Memory) (a : Nat) (bs : List Byte) : m.Stores (m.writeBytes a bs) a bs :=
  ⟨fun k hk => m.read_writeBytes_inside a k bs hk, fun x hx => m.read_writeBytes_outside a x bs hx⟩

/-- A length or count that is no larger than a register's value fits a register (log 20). -/
theorem toNat_ofNat_of_le {n : Nat} {w : Word} (h : n ≤ w.toNat) : (BitVec.ofNat 32 n).toNat = n :=
  Nat.mod_eq_of_lt (Nat.lt_of_le_of_lt h w.isLt)

/-- CHK_SCAN after its checks and its parse: its own part, with CHUNK_COUNT among what it commits (R157). -/
theorem exec_chkScan_of_parse {s : State} {cs : List Chunk} (hr : s.regionsOk = true)
    (hp : parse s.format (s.latch.source s.mem) = .ok cs) :
    exec .chkScan s = .next (s.finish ((outputOf s.latch (12 * cs.length) (cs.flatMap descriptor)).map
      (fun k => { k with chunkCount := some (BitVec.ofNat 32 cs.length) }))) := by
  rw [exec, execChkScan, chkScanResult, checkRegions_of_regionsOk hr, chunkResult_of_parse hp, scanOwn]

/-- Settles O44: CHK_SCAN's output within the capacity, and beyond it. -/
theorem chkScanDescribes : Obligations.ChkScanDescribes := by
  intro s cs hr hp
  rw [exec_chkScan_of_parse hr hp]
  refine ⟨fun hcap => ?_, fun hcap => ?_⟩
  · have hcount : cs.length ≤ s.latch.dstCap.toNat := by omega
    rw [outputOf_of_le _ hcap]
    exact ⟨_, rfl, rfl, toNat_ofNat_of_le hcap, toNat_ofNat_of_le hcount, s.mem.stores_writeBytes _ _⟩
  · rw [outputOf_of_lt _ hcap]
    rfl

end Sys2Proof.Machine
end

section
/-! The arithmetic of the grid (40_mapper.md R101 to R104): its dimensions and its pad count, each from the one fact that says
when a rounded-up quotient is at most a bound. -/

namespace Sys2Proof.Machine

/-! ### Rounding up -/

/-- A quotient rounded up is at most `c` exactly when `c` divisors cover the dividend (00_scope.md R9). -/
theorem ceilDiv_le_iff {a b c : Nat} (hb : 0 < b) : ceilDiv a b ≤ c ↔ a ≤ b * c := ceilDiv_le_iff_le_mul hb

theorem le_mul_ceilDiv {b : Nat} (a : Nat) (hb : 0 < b) : a ≤ b * ceilDiv a b := (ceilDiv_le_iff hb).mp le_rfl

theorem ceilDiv_pos {a b : Nat} (ha : 0 < a) (hb : 0 < b) : 0 < ceilDiv a b := by
  by_contra h
  have hle : a ≤ b * 0 := (ceilDiv_le_iff hb).mp (Nat.le_of_not_lt h)
  omega

/-- Rounding up adds less than one divisor. -/
theorem mul_ceilDiv_lt {a b : Nat} (ha : 0 < a) (hb : 0 < b) : b * ceilDiv a b < a + b := by
  obtain ⟨c, hc⟩ := Nat.exists_eq_succ_of_ne_zero (ceilDiv_pos ha hb).ne'
  have hlt : b * c < a := Nat.lt_of_not_le fun h => by
    have := (ceilDiv_le_iff hb).mpr h
    omega
  rw [hc, Nat.mul_succ]
  omega

/-! ### The dimensions -/

theorem unitWidth_eq (n : Nat) : unitWidth n = (n + 2) / 3 := rfl

theorem gridHeight_pos (maxDim n : Nat) : 0 < gridHeight maxDim n := Nat.succ_pos _

theorem gridWidth_pos (maxDim n : Nat) : 0 < gridWidth maxDim n := Nat.le_max_left 1 _

/-- The clamp acts on empty input only (R104). -/
theorem gridWidth_of_pos {maxDim n : Nat} (h : 0 < unitWidth n) :
    gridWidth maxDim n = ceilDiv (unitWidth n) (gridHeight maxDim n) :=
  Nat.max_eq_right (ceilDiv_pos h (gridHeight_pos maxDim n))

theorem gridWidth_of_zero {maxDim n : Nat} (h : unitWidth n = 0) : gridWidth maxDim n = 1 :=
  Nat.max_eq_left ((ceilDiv_le_iff (gridHeight_pos maxDim n)).mpr (by omega))

/-- The rows of MAX_DIM pixels that fit a height hold every pixel of the payload. -/
theorem unitWidth_le_gridHeight_mul {maxDim : Nat} (n : Nat) (h : 0 < maxDim) :
    unitWidth n ≤ gridHeight maxDim n * maxDim := by
  rw [Nat.mul_comm]
  exact (Nat.lt_mul_div_succ (unitWidth n) h).le

theorem gridWidth_le {maxDim : Nat} (n : Nat) (h : 0 < maxDim) : gridWidth maxDim n ≤ maxDim :=
  Nat.max_le.mpr ⟨h, (ceilDiv_le_iff (gridHeight_pos maxDim n)).mpr (unitWidth_le_gridHeight_mul n h)⟩

/-- The grid holds every pixel of the payload, for MAX_DIM 0 as well. -/
theorem unitWidth_le_area (maxDim n : Nat) : unitWidth n ≤ gridWidth maxDim n * gridHeight maxDim n :=
  calc unitWidth n
    _ ≤ gridHeight maxDim n * ceilDiv (unitWidth n) (gridHeight maxDim n) :=
      le_mul_ceilDiv _ (gridHeight_pos maxDim n)
    _ ≤ gridHeight maxDim n * gridWidth maxDim n := Nat.mul_le_mul_left _ (Nat.le_max_right 1 _)
    _ = gridWidth maxDim n * gridHeight maxDim n := Nat.mul_comm _ _

/-- The grid has less than one column too many. -/
theorem area_sub_unitWidth_lt {maxDim n : Nat} (h : 0 < unitWidth n) :
    gridWidth maxDim n * gridHeight maxDim n - unitWidth n < gridHeight maxDim n := by
  have hpos := gridHeight_pos maxDim n
  have hlt := mul_ceilDiv_lt h hpos
  rw [gridWidth_of_pos h, Nat.mul_comm]
  omega

/-- A payload of `maxDim * k` pixels makes a grid of more than `k` rows. -/
theorem gridHeight_of_mul {maxDim : Nat} (k : Nat) (h : 0 < maxDim) : gridHeight maxDim (3 * (maxDim * k)) = k + 1 := by
  have hu : unitWidth (3 * (maxDim * k)) = maxDim * k := by rw [unitWidth_eq]; omega
  rw [gridHeight, hu, Nat.mul_div_cancel_left k h]

/-- Settles O27: each consequence of the formulas by its lemma, and the three lengths at MAX_DIM 32768. -/
theorem gridDimensions : Obligations.GridDimensions := by
  refine ⟨fun maxDim n h => ?_, fun maxDim k h => ⟨3 * (maxDim * k), ?_⟩, fun n hlo hhi => ?_⟩
  · exact ⟨unitWidth_eq n, rfl, fun hu => gridWidth_of_pos (Nat.pos_of_ne_zero hu), gridWidth_of_zero,
      gridWidth_pos maxDim n, gridWidth_le n h, unitWidth_le_area maxDim n, area_sub_unitWidth_lt⟩
  · rw [gridHeight_of_mul k h]
    exact Nat.lt_succ_self k
  · have hu : unitWidth n = 32768 := by rw [unitWidth_eq]; omega
    exact ⟨hu, by rw [gridHeight, hu]⟩

/-! ### The pad count -/

/-- The slots the payload takes, sentinels between them counted, fit the grid. -/
theorem payloadSlots_le_gridTotal (maxDim n : Nat) : 4 * (n / 3) + n % 3 ≤ gridTotal maxDim n := by
  have harea := unitWidth_le_area maxDim n
  rw [unitWidth_eq] at harea
  rw [gridTotal]
  omega

theorem gridPad_add (maxDim n : Nat) : gridPad maxDim n + (4 * (n / 3) + n % 3) = gridTotal maxDim n :=
  Nat.sub_add_cancel (payloadSlots_le_gridTotal maxDim n)

theorem gridPad_le_gridTotal (maxDim n : Nat) : gridPad maxDim n ≤ gridTotal maxDim n := Nat.sub_le _ _

/-- Settles O28: the residues follow from the sum, the total being a multiple of 4. -/
theorem padLengthFormula : Obligations.PadLengthFormula := by
  intro maxDim n _
  have hadd := gridPad_add maxDim n
  have hfour : gridTotal maxDim n % 4 = 0 := Nat.mul_mod_left _ 4
  exact ⟨rfl, by omega, gridPad_le_gridTotal maxDim n, by omega, by omega, by omega⟩

end Sys2Proof.Machine
end

section
/-! The mapper's two functions on byte strings (40_mapper.md R100, R102, R105, R106, R108): what each byte of their outputs is,
and that the second takes the first back. -/

namespace Sys2Proof.Machine

theorem gridOf_getD {maxDim j : Nat} {src : List Byte} (h : j < gridTotal maxDim src.length) :
    (gridOf maxDim src).getD j 0 = gridSlot src j := by
  simp [gridOf, h]

theorem payloadOf_getD {grid : List Byte} {pad k : Nat} (h : k < payloadCount (grid.length - pad)) :
    (payloadOf grid pad).getD k 0 = grid.getD (4 * (k / 3) + k % 3) 0 := by
  simp [payloadOf, h]

/-- Payload byte `k` stands in slot `4 * (k / 3) + k % 3`, which is no sentinel's (R102, R108). -/
theorem gridSlot_of_payload (src : List Byte) (k : Nat) : gridSlot src (4 * (k / 3) + k % 3) = src.getD k 0 := by
  have hdata : (4 * (k / 3) + k % 3) % 4 ≠ 3 := by omega
  have hindex : 3 * ((4 * (k / 3) + k % 3) / 4) + (4 * (k / 3) + k % 3) % 4 = k := by omega
  rw [gridSlot, if_neg hdata, hindex]

/-- An index MAP_G2B reads is below the usable length (R106). -/
theorem payloadSlot_lt {k u : Nat} (h : k < payloadCount u) : 4 * (k / 3) + k % 3 < u := by
  rw [payloadCount] at h
  omega

/-- The slots `n` payload bytes take hold `n` payload bytes (R105, R108). -/
theorem payloadCount_slots (n : Nat) : payloadCount (4 * (n / 3) + n % 3) = n := by
  rw [payloadCount]
  omega

/-- The usable length of a packed grid is what its payload takes. -/
theorem gridTotal_sub_gridPad (maxDim n : Nat) : gridTotal maxDim n - gridPad maxDim n = 4 * (n / 3) + n % 3 := by
  have := gridPad_add maxDim n
  omega

theorem gridOf_getD_payload (maxDim : Nat) {payload : List Byte} {k : Nat} (h : k < payload.length) :
    (gridOf maxDim payload).getD (4 * (k / 3) + k % 3) 0 = payload.getD k 0 := by
  have hslot : 4 * (k / 3) + k % 3 < 4 * (payload.length / 3) + payload.length % 3 :=
    payloadSlot_lt ((payloadCount_slots payload.length).symm ▸ h)
  rw [gridOf_getD (hslot.trans_le (payloadSlots_le_gridTotal maxDim payload.length)), gridSlot_of_payload]

theorem payloadOf_gridOf (maxDim : Nat) (payload : List Byte) :
    payloadOf (gridOf maxDim payload) (gridPad maxDim payload.length) = payload := by
  have hcount : payloadCount ((gridOf maxDim payload).length - gridPad maxDim payload.length) = payload.length := by
    rw [gridOf_length, gridTotal_sub_gridPad, payloadCount_slots]
  refine List.ext_getElem (by rw [payloadOf_length, hcount]) fun k hk hk' => ?_
  rw [← List.getD_eq_getElem _ 0 hk, ← List.getD_eq_getElem _ 0 hk', payloadOf_getD (by omega),
    gridOf_getD_payload maxDim hk']

/-- Settles O32: the two functions byte by byte. -/
theorem mapperRoundTrip : Obligations.MapperRoundTrip :=
  fun maxDim payload _ => ⟨payloadOf_gridOf maxDim payload, fun _ => gridOf_getD_payload maxDim⟩

end Sys2Proof.Machine
end

section
/-! The mapper's two commands after their region checks (40_mapper.md R100, R104, R105, R107; 60_exceptions.md R194): what each
commits, and how each fails. -/

namespace Sys2Proof.Machine

/-- What MAP_B2G commits when its grid fits (R100). -/
def State.gridCommit (s : State) : Commit where
  out := gridOf s.maxDim.toNat (s.latch.source s.mem)
  dstLen := some (BitVec.ofNat 32 (gridTotal s.maxDim.toNat s.latch.srcLen.toNat))
  width := some (BitVec.ofNat 32 (gridWidth s.maxDim.toNat s.latch.srcLen.toNat))
  height := some (BitVec.ofNat 32 (gridHeight s.maxDim.toNat s.latch.srcLen.toNat))
  padLen := some (BitVec.ofNat 32 (gridPad s.maxDim.toNat s.latch.srcLen.toNat))

/-- realByteCount: the payload bytes MAP_G2B finds in its source when PAD_LEN is not too large (R105). -/
def Latch.realByteCount (o : Latch) : Nat := payloadCount (o.srcLen.toNat - o.padLen.toNat)

/-- What MAP_G2B commits when its output fits (R105). -/
def State.payloadCommit (s : State) : Commit where
  out := payloadOf (s.latch.source s.mem) s.latch.padLen.toNat
  dstLen := some (BitVec.ofNat 32 s.latch.realByteCount)

/-! ### The commands' outcomes -/

section

variable {s : State}

theorem exec_mapB2g_of_le (hr : s.regionsOk = true)
    (hcap : gridTotal s.maxDim.toNat s.latch.srcLen.toNat ≤ s.latch.dstCap.toNat) :
    exec .mapB2g s = .next (s.commit s.gridCommit) := by
  rw [exec, execMapB2g, mapB2gResult, checkRegions_of_regionsOk hr]
  simp only [if_neg (Nat.not_lt.mpr hcap)]
  rfl

theorem exec_mapB2g_of_lt (hr : s.regionsOk = true)
    (hcap : s.latch.dstCap.toNat < gridTotal s.maxDim.toNat s.latch.srcLen.toNat) :
    exec .mapB2g s =
      .next (s.fail ⟨.dstOverflow, sat32 (gridTotal s.maxDim.toNat s.latch.srcLen.toNat)⟩) := by
  rw [exec, execMapB2g, mapB2gResult, checkRegions_of_regionsOk hr]
  simp only [if_pos hcap, State.finish_error]

theorem exec_mapG2b_of_badPad (hr : s.regionsOk = true) (hpad : s.latch.srcLen.toNat < s.latch.padLen.toNat) :
    exec .mapG2b s = .next (s.fail ⟨.badPadLength, s.latch.padLen⟩) := by
  rw [exec, execMapG2b, mapG2bResult, checkRegions_of_regionsOk hr]
  simp only [if_pos hpad, State.finish_error]

/-- MAP_G2B past its check of PAD_LEN is the capacity check on its output (R105, R194). -/
theorem exec_mapG2b_of_goodPad (hr : s.regionsOk = true) (hpad : s.latch.padLen.toNat ≤ s.latch.srcLen.toNat) :
    exec .mapG2b s = .next (s.finish (outputOf s.latch s.latch.realByteCount s.payloadCommit.out)) := by
  rw [exec, execMapG2b, mapG2bResult, checkRegions_of_regionsOk hr]
  simp only [if_neg (Nat.not_lt.mpr hpad)]
  rfl

theorem exec_mapG2b_of_le (hr : s.regionsOk = true) (hpad : s.latch.padLen.toNat ≤ s.latch.srcLen.toNat)
    (hcap : s.latch.realByteCount ≤ s.latch.dstCap.toNat) :
    exec .mapG2b s = .next (s.commit s.payloadCommit) := by
  rw [exec_mapG2b_of_goodPad hr hpad, outputOf_of_le _ hcap]
  rfl

theorem exec_mapG2b_of_lt (hr : s.regionsOk = true) (hpad : s.latch.padLen.toNat ≤ s.latch.srcLen.toNat)
    (hcap : s.latch.dstCap.toNat < s.latch.realByteCount) :
    exec .mapG2b s = .next (s.fail ⟨.dstOverflow, sat32 s.latch.realByteCount⟩) := by
  rw [exec_mapG2b_of_goodPad hr hpad, outputOf_of_lt _ hcap, State.finish_error]

end

/-- Settles O31: MAP_G2B's check of PAD_LEN. -/
theorem badPadLengthFails : Obligations.BadPadLengthFails := fun _ hr hpad => exec_mapG2b_of_badPad hr hpad

/-- Settles O26: the capacity check of each command. -/
theorem mapperOverflows : Obligations.MapperOverflows :=
  fun _ hr => ⟨fun hcap => exec_mapB2g_of_lt hr hcap, fun hpad hcap => exec_mapG2b_of_lt hr hpad hcap⟩

/-! ### The commits -/

/-- A source byte, read as 0 past the end of the source. -/
theorem Latch.source_getD (o : Latch) (m : Memory) (k : Nat) :
    (o.source m).getD k 0 = if k < o.srcLen.toNat then m.read (o.srcAddr.toNat + k) else 0 := by
  split
  · exact Memory.readBytes_getD m _ _ k ‹_›
  · exact List.getD_eq_default _ _ (by rw [Latch.source_length]; omega)

@[simp] theorem State.gridCommit_out_length (s : State) :
    s.gridCommit.out.length = gridTotal s.maxDim.toNat s.latch.srcLen.toNat := by
  rw [State.gridCommit, gridOf_length, Latch.source_length]

@[simp] theorem State.payloadCommit_out_length (s : State) : s.payloadCommit.out.length = s.latch.realByteCount := by
  rw [State.payloadCommit, payloadOf_length, Latch.source_length, Latch.realByteCount]

/-- A slot of the grid MAP_B2G stores, from the source in memory (R102). -/
theorem State.gridCommit_out_getD {s : State} {j : Nat} (h : j < gridTotal s.maxDim.toNat s.latch.srcLen.toNat) :
    s.gridCommit.out.getD j 0 =
      if j % 4 = 3 then 255
      else if 3 * (j / 4) + j % 4 < s.latch.srcLen.toNat
        then s.mem.read (s.latch.srcAddr.toNat + (3 * (j / 4) + j % 4)) else 0 := by
  rw [← Latch.source_length s.latch s.mem] at h
  rw [State.gridCommit, gridOf_getD h, gridSlot, Latch.source_getD]
  rfl

/-- A byte MAP_G2B stores, from the source in memory: no byte of the last PAD_LEN is read (R106). -/
theorem State.payloadCommit_out_getD {s : State} {k : Nat} (h : k < s.latch.realByteCount) :
    s.payloadCommit.out.getD k 0 = s.mem.read (s.latch.srcAddr.toNat + (4 * (k / 3) + k % 3)) := by
  have hslot : 4 * (k / 3) + k % 3 < s.latch.srcLen.toNat - s.latch.padLen.toNat := payloadSlot_lt h
  rw [Latch.realByteCount, ← Latch.source_length s.latch s.mem] at h
  rw [State.payloadCommit, payloadOf_getD h, Latch.source_getD, if_pos (by omega)]

/-- Settles O25: the commit stores the grid, and each result is at most the grid's length, which fits DST_CAP. -/
theorem mapB2gPacks : Obligations.MapB2gPacks := by
  intro s hr n u h w hcap
  have hw : w ≤ w * h := Nat.le_mul_of_pos_right w (gridHeight_pos s.maxDim.toNat n)
  have hh : h ≤ w * h := Nat.le_mul_of_pos_left h (gridWidth_pos s.maxDim.toNat n)
  have hpad : (BitVec.ofNat 32 (gridPad s.maxDim.toNat n)).toNat = gridPad s.maxDim.toNat n :=
    toNat_ofNat_of_le ((gridPad_le_gridTotal s.maxDim.toNat n).trans hcap)
  obtain ⟨hin, hframe⟩ := s.mem.stores_writeBytes s.latch.dstAddr.toNat s.gridCommit.out
  rw [State.gridCommit_out_length] at hin hframe
  refine ⟨_, exec_mapB2g_of_le hr hcap, rfl, toNat_ofNat_of_le (by omega : w ≤ s.latch.dstCap.toNat),
    toNat_ofNat_of_le (by omega : h ≤ s.latch.dstCap.toNat), toNat_ofNat_of_le hcap, ?_,
    fun j hj => (hin j hj).trans (State.gridCommit_out_getD hj), hframe⟩
  exact (congrArg (· + (4 * (n / 3) + n % 3)) hpad).trans (gridPad_add s.maxDim.toNat n)

/-- Settles O30: the commit stores the payload, each byte of it read below the usable length. -/
theorem mapG2bUnpacks : Obligations.MapG2bUnpacks := by
  intro s hr hpad u m hcap
  obtain ⟨hin, hframe⟩ := s.mem.stores_writeBytes s.latch.dstAddr.toNat s.payloadCommit.out
  rw [State.payloadCommit_out_length] at hin hframe
  exact ⟨_, exec_mapG2b_of_le hr hpad hcap, rfl, toNat_ofNat_of_le hcap,
    fun k hk => ⟨payloadSlot_lt hk, (hin k hk).trans (State.payloadCommit_out_getD hk)⟩, hframe⟩

/-! ### Empty input -/

theorem gridWidth_zero (maxDim : Nat) : gridWidth maxDim 0 = 1 := gridWidth_of_zero rfl

theorem gridHeight_zero (maxDim : Nat) : gridHeight maxDim 0 = 1 := congrArg (· + 1) (Nat.zero_div maxDim)

theorem gridTotal_zero (maxDim : Nat) : gridTotal maxDim 0 = 4 := by
  rw [gridTotal, gridWidth_zero, gridHeight_zero]

theorem gridPad_zero (maxDim : Nat) : gridPad maxDim 0 = 4 := by rw [gridPad, gridTotal_zero]

/-- The one pixel of an empty payload: three zeros and the sentinel (R102, R104). -/
theorem gridOf_nil (maxDim : Nat) : gridOf maxDim [] = [0x00, 0x00, 0x00, 0xFF] := by
  rw [gridOf, List.length_nil, gridTotal_zero]
  rfl

/-- What MAP_B2G commits for an empty source (R104). -/
theorem State.gridCommit_of_empty {s : State} (h : s.latch.srcLen = 0) :
    s.gridCommit =
      { out := [0x00, 0x00, 0x00, 0xFF], dstLen := some 4, width := some 1, height := some 1, padLen := some 4 } := by
  have hlen : s.latch.srcLen.toNat = 0 := congrArg BitVec.toNat h
  have hsrc : s.latch.source s.mem = [] := List.eq_nil_of_length_eq_zero ((Latch.source_length _ _).trans hlen)
  rw [State.gridCommit, hsrc, hlen, gridOf_nil, gridTotal_zero, gridWidth_zero, gridHeight_zero, gridPad_zero]
  rfl

/-- Settles O29: the commit for an empty source, and a rounded-up quotient of a positive count is positive. -/
theorem emptyInputPacks : Obligations.EmptyInputPacks := by
  refine ⟨fun s hr hlen _ hcap => ?_, fun maxDim n _ hu => ceilDiv_pos hu (gridHeight_pos maxDim n)⟩
  have htotal : gridTotal s.maxDim.toNat s.latch.srcLen.toNat = 4 := by rw [hlen]; exact gridTotal_zero s.maxDim.toNat
  rw [exec_mapB2g_of_le hr (htotal.le.trans hcap), State.gridCommit_of_empty hlen]
  exact ⟨_, rfl, rfl, s.mem.stores_writeBytes _ _⟩

end Sys2Proof.Machine
end

section
/-! One row of a reconstruction (41_filter.md R120 to R127): each byte of the row a filter type stores, from the filtered byte
and the reconstructed bytes left, up and leftup of it. -/

namespace Sys2Proof.Machine

/-! ### The bytes of a row -/

/-- The byte a reconstruction appends to the bytes `done` of its row, the latest first, for the filtered byte `b` (R120, R121). -/
def nextByte (pred : Nat → Nat → Nat → Nat) (up done : List Byte) (b : Byte) : Byte :=
  reconByte pred (if 4 ≤ done.length then done.getD 3 0 else 0) (up.getD done.length 0)
    (if 4 ≤ done.length then up.getD (done.length - 4) 0 else 0) b

/-- The whole row whose bytes so far are `done`, the latest first, and whose filtered bytes to come are `cur`. -/
def rowFrom (pred : Nat → Nat → Nat → Nat) (up done cur : List Byte) : List Byte :=
  done.reverse ++ reconFrom pred up done.length done cur

section

variable (pred : Nat → Nat → Nat → Nat) (up done : List Byte)

theorem reconRow_eq_rowFrom (cur : List Byte) : reconRow pred up cur = rowFrom pred up [] cur := rfl

theorem reconFrom_cons (b : Byte) (cur : List Byte) :
    reconFrom pred up done.length done (b :: cur) =
      nextByte pred up done b :: reconFrom pred up (done.length + 1) (nextByte pred up done b :: done) cur := rfl

/-- Appending the next byte leaves the whole row the same. -/
theorem rowFrom_cons (b : Byte) (cur : List Byte) :
    rowFrom pred up done (b :: cur) = rowFrom pred up (nextByte pred up done b :: done) cur := by
  simp [rowFrom, reconFrom_cons]

theorem rowFrom_getD_next (b : Byte) (cur : List Byte) :
    (rowFrom pred up done (b :: cur)).getD done.length 0 = nextByte pred up done b := by
  simp [rowFrom, reconFrom_cons]

/-- The fourth latest byte is the one four before the next. -/
theorem rowFrom_getD_left (cur : List Byte) (h : 4 ≤ done.length) :
    (rowFrom pred up done cur).getD (done.length - 4) 0 = done.getD 3 0 := by
  have hidx : done.length - 1 - (done.length - 4) = 3 := by omega
  rw [rowFrom, List.getD_append _ _ _ _ (by rw [List.length_reverse]; omega), List.getD_eq_getElem?_getD,
    List.getElem?_reverse (by omega), hidx, List.getD_eq_getElem?_getD]

/-- Each byte still to come is the reconstruction of its filtered byte, with the left neighbour of the row itself (R121). -/
theorem rowFrom_getD {cur : List Byte} {x : Nat} (hlo : done.length ≤ x) (hhi : x < done.length + cur.length) :
    (rowFrom pred up done cur).getD x 0 =
      reconByte pred (if 4 ≤ x then (rowFrom pred up done cur).getD (x - 4) 0 else 0) (up.getD x 0)
        (if 4 ≤ x then up.getD (x - 4) 0 else 0) (cur.getD (x - done.length) 0) := by
  induction cur generalizing done with
  | nil => simp only [List.length_nil] at hhi; omega
  | cons b cur ih =>
    by_cases hx : x = done.length
    · subst hx
      rw [rowFrom_getD_next, nextByte, Nat.sub_self, List.getD_cons_zero]
      by_cases h4 : 4 ≤ done.length
      · rw [rowFrom_getD_left pred up done _ h4]
      · rw [if_neg h4, if_neg h4, if_neg h4]
    · have hsucc : x - done.length = x - (done.length + 1) + 1 := by omega
      rw [rowFrom_cons, ih (nextByte pred up done b :: done) (by rw [List.length_cons]; omega)
        (by simp only [List.length_cons] at hhi ⊢; omega), hsucc, List.getD_cons_succ, List.length_cons]

/-- Each byte of a reconstructed row, with the left neighbour of the row itself (R121). -/
theorem reconRow_getD {cur : List Byte} {x : Nat} (h : x < cur.length) :
    (reconRow pred up cur).getD x 0 =
      reconByte pred (if 4 ≤ x then (reconRow pred up cur).getD (x - 4) 0 else 0) (up.getD x 0)
        (if 4 ≤ x then up.getD (x - 4) 0 else 0) (cur.getD x 0) := by
  rw [reconRow_eq_rowFrom]
  exact rowFrom_getD pred up [] (Nat.zero_le x) (by simpa using h)

end

/-! ### The row in memory -/

/-- The address of the reconstructed row above the current one (R79). -/
def State.aboveAddr (s : State) : Nat := s.latch.dstAddr.toNat + (s.row - 1) * rowBytes s.latch.width.toNat

/-- A byte of the row above, which is 0 above row 0 (R121). -/
theorem State.rowAbove_getD (s : State) {x : Nat} (h : x < rowBytes s.latch.width.toNat) :
    s.rowAbove.getD x 0 = if 1 ≤ s.row then s.mem.read (s.aboveAddr + x) else 0 := by
  unfold State.rowAbove
  by_cases hr : s.row = 0
  · simp [hr, h]
  · rw [if_neg hr, if_pos (Nat.one_le_iff_ne_zero.mpr hr)]
    exact Memory.readBytes_getD _ _ _ _ h

theorem reconByte_toNat (pred : Nat → Nat → Nat → Nat) (a b c cur : Byte) :
    (reconByte pred a b c cur).toNat = (cur.toNat + pred a.toNat b.toNat c.toNat) % 256 :=
  BitVec.toNat_ofNat _ 8

/-- The next row of the walk: the current one reconstructed with `pred` and stored (R120). -/
def State.nextRow (s : State) (pred : Nat → Nat → Nat → Nat) : State :=
  { s with mem := s.mem.writeBytes s.reconAddr (s.reconstructed pred), row := s.row + 1 }

/-- A byte of the stored row is the byte of the reconstructed row. -/
theorem State.nextRow_read (s : State) (pred : Nat → Nat → Nat → Nat) {x : Nat} (h : x < rowBytes s.latch.width.toNat) :
    (s.nextRow pred).mem.read (s.reconAddr + x) = (s.reconstructed pred).getD x 0 :=
  Memory.read_writeBytes_inside _ _ _ _ (by rwa [State.reconstructed_length])

/-- A byte of the stored row, from the filtered byte and its neighbours in memory (R120, R121). -/
theorem State.nextRow_read_eq (s : State) (pred : Nat → Nat → Nat → Nat) {x : Nat}
    (h : x < rowBytes s.latch.width.toNat) :
    (s.nextRow pred).mem.read (s.reconAddr + x) =
      reconByte pred
        (if 4 ≤ x then (s.nextRow pred).mem.read (s.reconAddr + (x - 4)) else 0)
        (if 1 ≤ s.row then s.mem.read (s.aboveAddr + x) else 0)
        (if 4 ≤ x ∧ 1 ≤ s.row then s.mem.read (s.aboveAddr + (x - 4)) else 0)
        (s.mem.read (s.filteredAddr + x)) := by
  have h4 : x - 4 < rowBytes s.latch.width.toNat := Nat.lt_of_le_of_lt (Nat.sub_le x 4) h
  have hbyte := reconRow_getD pred s.rowAbove
    (x := x) (cur := s.mem.readBytes s.filteredAddr (rowBytes s.latch.width.toNat))
    (by rwa [Memory.readBytes_length])
  rw [s.nextRow_read pred h, s.nextRow_read pred h4, ite_and, ← s.rowAbove_getD h, ← s.rowAbove_getD h4,
    ← Memory.readBytes_getD _ _ _ _ h]
  exact hbyte

/-- A filter type stores the row R121 gives for its predictor. -/
theorem State.nextRow_reconstructs (s : State) (pred : Nat → Nat → Nat → Nat) :
    RowReconstructed pred s (s.nextRow pred) := by
  refine ⟨rfl, fun x hx => ?_, fun a ha => ?_⟩
  · have hbyte := congrArg BitVec.toNat (s.nextRow_read_eq pred hx)
    simp only [reconByte_toNat, apply_ite BitVec.toNat] at hbyte
    exact hbyte
  · exact Memory.read_writeBytes_outside _ _ _ _ (by rwa [State.reconstructed_length])

theorem reconstructRow_reconstructs (pred : Nat → Nat → Nat → Nat) {s : State} (h : s.rowInMemory = true) :
    ∃ t, reconstructRow pred s = .next t ∧ RowReconstructed pred s t :=
  ⟨s.nextRow pred, reconstructRow_of_inMemory pred h, s.nextRow_reconstructs pred⟩

/-- Settles O35: the row with the predictor of None. -/
theorem filterNoneRow : Obligations.FilterNoneRow := fun _ h => reconstructRow_reconstructs predNone h

/-- Settles O36: the row with the predictor of Sub. -/
theorem filterSubRow : Obligations.FilterSubRow := fun _ h => reconstructRow_reconstructs predSub h

/-- Settles O37: the row with the predictor of Up. -/
theorem filterUpRow : Obligations.FilterUpRow := fun _ h => reconstructRow_reconstructs predUp h

/-- Settles O38: the row with the predictor of Average. -/
theorem filterAverageRow : Obligations.FilterAverageRow := fun _ h => reconstructRow_reconstructs predAverage h

/-- Settles O39: the row with the predictor of Paeth, whose distances are absolute values. -/
theorem filterPaethRow : Obligations.FilterPaethRow := by
  intro s h
  have hrow := reconstructRow_reconstructs predPaeth h
  simp only [Int.abs_eq_natAbs, Nat.cast_le]
  exact hrow

end Sys2Proof.Machine
end

section
/-! The steps of FLT_RECON (41_filter.md R120, R128, R129): its checks in their order, and each step of its row walk. -/

namespace Sys2Proof.Machine

/-! ### The checks -/

/-- The checks of FLT_RECON once its regions are in order: the source first, then the output (60_exceptions.md R195). -/
theorem fltCheck_of_regions {size : Nat} {o : Latch} (h : checkRegions size o = none) :
    fltCheck size o =
      if o.srcLen.toNat < scanlineNeed o.width.toNat o.height.toNat then
        some ⟨.shortScanlineData, sat32 (scanlineNeed o.width.toNat o.height.toNat)⟩
      else if o.dstCap.toNat < reconLength o.width.toNat o.height.toNat then
        some ⟨.dstOverflow, sat32 (reconLength o.width.toNat o.height.toNat)⟩
      else none := by
  rw [fltCheck, h]

section

variable {s : State}

theorem exec_fltRecon_of_fails {f : Failure} (h : fltCheck s.memSize.toNat s.latch = some f) :
    exec .fltRecon s = .next (s.fail f) := by
  rw [exec, execFltRecon, h]

theorem exec_fltRecon_of_passes (h : fltCheck s.memSize.toNat s.latch = none) :
    exec .fltRecon s = .next { s with phase := .rows, row := 0 } := by
  rw [exec, execFltRecon, h]

end

/-- Settles O33: every check of FLT_RECON passes. -/
theorem fltReconStarts : Obligations.FltReconStarts :=
  fun _ hr hneed hout => exec_fltRecon_of_passes (fltCheck_eq_none.mpr ⟨checkRegions_of_regionsOk hr, hneed, hout⟩)

/-- Settles O34: the first size check that fails. -/
theorem fltReconSizeErrors : Obligations.FltReconSizeErrors := by
  intro s hr need out
  have hcheck := fltCheck_of_regions (checkRegions_of_regionsOk hr)
  refine ⟨fun hneed => exec_fltRecon_of_fails ?_, fun hneed hout => exec_fltRecon_of_fails ?_⟩
  · exact hcheck.trans (if_pos hneed)
  · exact hcheck.trans ((if_neg (Nat.not_lt.mpr hneed)).trans (if_pos hout))

/-! ### The row walk -/

section

variable {s : State}

/-- The step at a row with a legal filter-type byte (R75, R120). -/
theorem step_of_row {i : Instr} (ht : s.turn = .sequencer) (hp : s.phase = .rows) (hr : s.row < s.latch.height.toNat)
    (hin : s.rowInMemory = true) (hd : decodeFilter s.filterByte = .ok i) :
    step s = .next (s.tick.nextRow (predOf i)) := by
  rw [step_of_fetch_instr ht (fetch_of_row hp hr hd), exec_filter s.tick hd]
  exact reconstructRow_of_inMemory (s := s.tick) (predOf i) hin

/-- The step at a row whose filter-type byte is no filter type (R128). -/
theorem step_of_badFilter {e : Reject} (ht : s.turn = .sequencer) (hp : s.phase = .rows)
    (hr : s.row < s.latch.height.toNat) (hd : decodeFilter s.filterByte = .error e) :
    step s = .next s.tick.invalidFilter := by
  have hf : fetch s = .badFilter := by simp only [fetch, hp, hr, hd, if_true]
  simp only [step, ht, hf]

/-- The step after the last row (R120). -/
theorem step_of_rowsDone (ht : s.turn = .sequencer) (hp : s.phase = .rows) (hr : s.latch.height.toNat ≤ s.row) :
    step s = .next s.tick.rowsComplete := by
  have hf : fetch s = .rowsDone := by simp only [fetch, hp, Nat.not_lt.mpr hr, if_false]
  simp only [step, ht, hf]

end

/-- The address lies outside the output of a reconstruction (30_encoding.md R79). -/
def Latch.OutsideOutput (o : Latch) (a : Nat) : Prop :=
  a < o.dstAddr.toNat ∨ o.dstAddr.toNat + reconLength o.width.toNat o.height.toNat ≤ a

/-- A bad filter byte leaves only output bytes unspecified (60_exceptions.md R197). -/
theorem State.invalidFilter_read_outsideOutput (s : State) {a : Nat} (h : s.latch.OutsideOutput a) :
    s.invalidFilter.mem.read a = s.mem.read a :=
  State.scramble_read_outside s _ _ a h

/-- Settles O7: a byte above 4 is no filter type, and the failure draws output bytes alone. -/
theorem invalidFilterByteFails : Obligations.InvalidFilterByteFails :=
  fun s ht hp hr hbyte => ⟨s.tick.invalidFilter, step_of_badFilter ht hp hr (decodeFilter_of_five_le hbyte), rfl,
    fun _ ha => s.tick.invalidFilter_read_outsideOutput ha⟩

/-- Settles O8: the walk's completion commits DST_LEN and stores nothing. -/
theorem rowWalkCompletes : Obligations.RowWalkCompletes := fun _ ht hp hr => step_of_rowsDone ht hp hr

end Sys2Proof.Machine
end

section
/-! The whole of FLT_RECON (41_filter.md R120, R122): the row walk, step by step, ends as the function `reconRows` of its source
bytes says. -/

namespace Sys2Proof.Machine

/-! ### Parts of a byte string in memory -/

theorem Memory.readBytes_drop (m : Memory) (a n k : Nat) : (m.readBytes a n).drop k = m.readBytes (a + k) (n - k) := by
  refine List.ext_getElem (by simp) fun j hj hj' => ?_
  simp [Memory.readBytes, Nat.add_assoc]

theorem Memory.readBytes_take (m : Memory) (a : Nat) {n k : Nat} (h : k ≤ n) :
    (m.readBytes a n).take k = m.readBytes a k := by
  refine List.ext_getElem (by simpa using h) fun j hj hj' => ?_
  simp [Memory.readBytes]

/-! ### The function of the rows from the current one on -/

/-- The source bytes from the current row's filter byte on. -/
def State.sourceRest (s : State) : List Byte :=
  s.mem.readBytes (s.latch.srcAddr.toNat + s.filterOffset) (s.latch.srcLen.toNat - s.filterOffset)

/-- What the function gives for the `k` rows from the current one on. -/
def State.rowsLeft (s : State) (k : Nat) : Except Failure (List Byte) :=
  reconRows s.latch.width.toNat k s.row s.rowAbove s.sourceRest

/-- A mapped result is a success only of a success. -/
theorem exists_of_map_eq_ok {α β ε : Type} {r : Except ε α} {f : α → β} {b : β} (h : r.map f = .ok b) :
    ∃ a, r = .ok a ∧ f a = b := by
  cases r with
  | error e => cases h
  | ok a => exact ⟨a, rfl, Except.ok.inj h⟩

/-- At a legal filter-type byte the function gives the row, and then the rows below it (R120). -/
theorem reconRows_of_row {width k y : Nat} {up src : List Byte} {i : Instr} (hd : decodeFilter (src.getD 0 0) = .ok i) :
    reconRows width (k + 1) y up src =
      (reconRows width k (y + 1) (reconRow (predOf i) up ((src.drop 1).take (rowBytes width)))
        (src.drop (scanlineLength width))).map
          (fun rest => reconRow (predOf i) up ((src.drop 1).take (rowBytes width)) ++ rest) := by
  rw [reconRows, hd]

/-- At any other byte it fails with the offset of the byte (R128). -/
theorem reconRows_of_badFilter {width k y : Nat} {up src : List Byte} {e : Reject}
    (hd : decodeFilter (src.getD 0 0) = .error e) :
    reconRows width (k + 1) y up src =
      .error ⟨.invalidFilter, BitVec.ofNat 32 (y * scanlineLength width)⟩ := by
  rw [reconRows, hd]

/-- The output of `k` rows has the length of `k` rows, when the source holds them (R79). -/
theorem reconRows_length {width k y : Nat} {up src out : List Byte} (hsrc : k * scanlineLength width ≤ src.length)
    (h : reconRows width k y up src = .ok out) : out.length = k * rowBytes width := by
  induction k generalizing y up src out with
  | zero => cases h; simp
  | succ k ih =>
    rw [Nat.succ_mul] at hsrc
    cases hd : decodeFilter (src.getD 0 0) with
    | error e => cases (reconRows_of_badFilter hd).symm.trans h
    | ok i =>
      rw [reconRows_of_row hd] at h
      obtain ⟨rest, hrest, rfl⟩ := exists_of_map_eq_ok h
      have hlen := ih (by rw [List.length_drop]; omega) hrest
      have hcur : ((src.drop 1).take (rowBytes width)).length = rowBytes width := by
        rw [scanlineLength] at hsrc
        rw [List.length_take, List.length_drop]
        omega
      rw [List.length_append, reconRow_length, hcur, hlen, Nat.succ_mul, Nat.add_comm]

section

variable {s : State}

/-- After the checks every scanline of the walk lies in the source (R120). -/
theorem State.scanline_in_source (hc : fltCheck s.memSize.toNat s.latch = none) (hr : s.row < s.latch.height.toNat) :
    s.filterOffset + scanlineLength s.latch.width.toNat ≤ s.latch.srcLen.toNat :=
  (row_end_le hr).trans (fltCheck_eq_none.mp hc).2.1

/-- After the checks every row of the walk lies in the output (R120). -/
theorem State.row_in_output (hr : s.row < s.latch.height.toNat) :
    s.row * rowBytes s.latch.width.toNat + rowBytes s.latch.width.toNat ≤
      reconLength s.latch.width.toNat s.latch.height.toNat := by
  rw [reconLength, Nat.mul_comm (rowBytes _)]
  exact row_end_le hr

/-- A row of the walk is stored inside the output. -/
theorem State.nextRow_read_outsideOutput (pred : Nat → Nat → Nat → Nat) {a : Nat} (hr : s.row < s.latch.height.toNat)
    (ha : s.latch.OutsideOutput a) : (s.nextRow pred).mem.read a = s.mem.read a := by
  have hrow := State.row_in_output hr
  apply Memory.read_writeBytes_outside
  rw [State.reconstructed_length, State.reconAddr]
  unfold Latch.OutsideOutput at ha
  omega

/-- The row above the next row is the one just stored (20_memory.md R57, R121). -/
theorem State.nextRow_rowAbove (s : State) (pred : Nat → Nat → Nat → Nat) :
    (s.nextRow pred).rowAbove = s.reconstructed pred := by
  have hread := s.mem.readBytes_writeBytes s.reconAddr (s.reconstructed pred)
  rw [State.reconstructed_length] at hread
  exact hread

/-- A row of the walk is stored outside the source, which the regions' check keeps apart from the output (60_exceptions.md
R193). -/
theorem State.nextRow_sourceRest (pred : Nat → Nat → Nat → Nat) (hc : fltCheck s.memSize.toNat s.latch = none)
    (hr : s.row < s.latch.height.toNat) :
    (s.nextRow pred).sourceRest = s.sourceRest.drop (scanlineLength s.latch.width.toNat) := by
  have hoffset : (s.nextRow pred).filterOffset = s.filterOffset + scanlineLength s.latch.width.toNat :=
    Nat.succ_mul _ _
  have hapart := regionsOverlap_eq_false.mp (checkRegions_eq_none.mp (fltCheck_eq_none.mp hc).1).2.2
  have hcap := reconLength_le_of_fltCheck hc
  have hrow := State.row_in_output hr
  have hsrc := State.scanline_in_source hc hr
  have hdrop : (s.nextRow pred).sourceRest = (s.nextRow pred).mem.readBytes
      (s.latch.srcAddr.toNat + (s.nextRow pred).filterOffset) (s.latch.srcLen.toNat - (s.nextRow pred).filterOffset) := rfl
  rw [hdrop, hoffset, State.sourceRest, Memory.readBytes_drop, Nat.add_assoc, Nat.sub_sub]
  apply Memory.readBytes_writeBytes_disjoint
  rw [State.reconstructed_length, State.reconAddr]
  omega

theorem State.sourceRest_filterByte (hc : fltCheck s.memSize.toNat s.latch = none) (hr : s.row < s.latch.height.toNat) :
    s.sourceRest.getD 0 0 = s.filterByte := by
  have hsrc := State.scanline_in_source hc hr
  rw [scanlineLength] at hsrc
  exact Memory.readBytes_getD _ _ _ 0 (by omega)

theorem State.sourceRest_filtered (hc : fltCheck s.memSize.toNat s.latch = none) (hr : s.row < s.latch.height.toNat) :
    (s.sourceRest.drop 1).take (rowBytes s.latch.width.toNat) =
      s.mem.readBytes s.filteredAddr (rowBytes s.latch.width.toNat) := by
  have hsrc := State.scanline_in_source hc hr
  rw [scanlineLength] at hsrc
  rw [State.sourceRest, Memory.readBytes_drop]
  exact Memory.readBytes_take _ _ (by omega)

/-- At a legal filter-type byte the function gives the row the walk stores, and then the rows from the next one on. -/
theorem State.rowsLeft_of_row {i : Instr} (k : Nat) (hc : fltCheck s.memSize.toNat s.latch = none)
    (hr : s.row < s.latch.height.toNat) (hd : decodeFilter s.filterByte = .ok i) :
    s.rowsLeft (k + 1) =
      ((s.nextRow (predOf i)).rowsLeft k).map (fun rest => s.reconstructed (predOf i) ++ rest) := by
  rw [← State.sourceRest_filterByte hc hr] at hd
  rw [State.rowsLeft, reconRows_of_row hd, State.sourceRest_filtered hc hr, State.rowsLeft, State.nextRow_rowAbove,
    State.nextRow_sourceRest _ hc hr]
  rfl

/-- At a bad filter byte the function gives the walk's failure (R128). -/
theorem State.rowsLeft_of_badFilter {e : Reject} (k : Nat) (hc : fltCheck s.memSize.toNat s.latch = none)
    (hr : s.row < s.latch.height.toNat) (hd : decodeFilter s.filterByte = .error e) :
    s.rowsLeft (k + 1) = .error ⟨.invalidFilter, BitVec.ofNat 32 s.filterOffset⟩ := by
  rw [← State.sourceRest_filterByte hc hr] at hd
  exact reconRows_of_badFilter hd

end

/-! ### The walk -/

/-- How a row walk from `s` ends for the outcome of the function: in success with the output's bytes stored from the current
row on, or in the failure, with every byte outside the output as before (R120, R128). -/
def State.WalkEnds (s t : State) : Except Failure (List Byte) → Prop
  | .ok out => t = ({ s with mem := s.mem.writeBytes s.reconAddr out } : State).rowsComplete
  | .error f =>
    t = { s.fail f with mem := t.mem, draws := t.draws } ∧
      ∀ a, s.latch.OutsideOutput a → t.mem.read a = s.mem.read a

/-- A walk that ends from the next row ends from the current one, with its row first. -/
theorem State.WalkEnds.of_nextRow {s t : State} {pred : Nat → Nat → Nat → Nat} {r : Except Failure (List Byte)}
    (hr : s.row < s.latch.height.toNat) (h : (s.nextRow pred).WalkEnds t r) :
    s.WalkEnds t (r.map (fun rest => s.reconstructed pred ++ rest)) := by
  cases r with
  | ok rest =>
    have haddr : (s.nextRow pred).reconAddr = s.reconAddr + (s.reconstructed pred).length := by
      rw [State.reconstructed_length, State.reconAddr, State.reconAddr, Nat.add_assoc, ← Nat.succ_mul]
      rfl
    have hmem := s.mem.writeBytes_append s.reconAddr (s.reconstructed pred) rest
    rw [← haddr] at hmem
    show t = ({ s with mem := s.mem.writeBytes s.reconAddr (s.reconstructed pred ++ rest) } : State).rowsComplete
    rw [hmem]
    exact h
  | error f =>
    obtain ⟨ht, hout⟩ := h
    exact ⟨ht, fun a ha => (hout a ha).trans (State.nextRow_read_outsideOutput pred hr ha)⟩

/-- With no host event to come a sequencer step leaves the host queue empty. -/
theorem State.tick_of_no_host {s : State} (h : s.host = []) : s.tick = s := (stepRunsDecodedInstruction.2 s).2.1 h

/-- The walk over the `k` rows left, and its last step, end as the function says. -/
theorem core_run_rows {s : State} {k : Nat} (hc : fltCheck s.memSize.toNat s.latch = none) (hp : s.phase = .rows)
    (hh : s.host = []) (hk : s.row + k = s.latch.height.toNat) :
    ∃ t : State, Host.Core.run Sys2Proof.core (k + 1) s = .next t ∧ s.WalkEnds t (s.rowsLeft k) := by
  induction k generalizing s with
  | zero =>
    have ht := State.turn_of_busy_alone hh (by simp [hp])
    have hs := step_of_rowsDone ht hp hk.ge
    rw [State.tick_of_no_host hh] at hs
    exact ⟨_, core_run_succ 0 hs, rfl⟩
  | succ k ih =>
    have ht := State.turn_of_busy_alone hh (by simp [hp])
    have hr : s.row < s.latch.height.toNat := by omega
    cases hd : decodeFilter s.filterByte with
    | ok i =>
      have hs := step_of_row ht hp hr (State.rowInMemory_of_fltCheck hc hr) hd
      rw [State.tick_of_no_host hh] at hs
      have hnext : (s.nextRow (predOf i)).row + k = s.latch.height.toNat := by
        rw [← hk, Nat.add_comm k, ← Nat.add_assoc]
        rfl
      obtain ⟨t, hrun, hend⟩ := ih (s := s.nextRow (predOf i)) hc hp hh hnext
      rw [State.rowsLeft_of_row k hc hr hd]
      exact ⟨t, (core_run_succ _ hs).trans hrun, hend.of_nextRow hr⟩
    | error e =>
      have hs := step_of_badFilter ht hp hr hd
      rw [State.tick_of_no_host hh] at hs
      rw [State.rowsLeft_of_badFilter k hc hr hd]
      exact ⟨s.invalidFilter, (core_run_succ _ hs).trans (core_run_of_fixed _ (step_of_nothing_to_do hh rfl)), rfl,
        fun a => s.invalidFilter_read_outsideOutput⟩

/-- The walk of FLT_RECON before its first row. -/
def State.firstRow (s : State) : State := { s with phase := .rows, row := 0 }

/-- From row 0 on the function is that of the whole source (R122). -/
theorem State.firstRow_rowsLeft (s : State) :
    s.firstRow.rowsLeft s.latch.height.toNat =
      reconAll s.latch.width.toNat s.latch.height.toNat (s.latch.source s.mem) := by
  simp [State.rowsLeft, State.firstRow, State.rowAbove, State.sourceRest, State.filterOffset, reconAll, Latch.source]

@[simp] theorem State.firstRow_reconAddr (s : State) : s.firstRow.reconAddr = s.latch.dstAddr.toNat := by
  simp [State.reconAddr, State.firstRow]

/-- The output of a reconstruction whose checks pass has its length (R120). -/
theorem reconAll_length {size : Nat} {o : Latch} {m : Memory} {out : List Byte} (hc : fltCheck size o = none)
    (h : reconAll o.width.toNat o.height.toNat (o.source m) = .ok out) :
    out.length = reconLength o.width.toNat o.height.toNat := by
  have hneed := (fltCheck_eq_none.mp hc).2.1
  rw [reconRows_length (by rwa [Latch.source_length]) h, reconLength, Nat.mul_comm]

/-- With FLT_RECON latched and its checks passed, HEIGHT + 2 steps are the start of the walk and the walk. -/
theorem core_run_fltRecon {s : State} (hp : s.phase = .command) (hw : s.latch.word = 0x00000011) (hh : s.host = [])
    (hc : fltCheck s.memSize.toNat s.latch = none) :
    ∃ t : State, Host.Core.run Sys2Proof.core (s.latch.height.toNat + 2) s = .next t ∧
      s.firstRow.WalkEnds t (reconAll s.latch.width.toNat s.latch.height.toNat (s.latch.source s.mem)) := by
  have ht := State.turn_of_busy_alone hh (by simp [hp])
  have hd : decodeCommand s.latch.word = .ok .fltRecon := by rw [hw]; rfl
  have hs : step s = .next s.firstRow := by
    rw [step_of_fetch_instr ht (fetch_of_command hp hd), State.tick_of_no_host hh]
    exact exec_fltRecon_of_passes hc
  obtain ⟨t, hrun, hend⟩ := core_run_rows (s := s.firstRow) hc rfl hh (Nat.zero_add s.latch.height.toNat)
  rw [State.firstRow_rowsLeft] at hend
  exact ⟨t, (core_run_succ _ hs).trans hrun, hend⟩

/-- Settles O40: the end of the walk from row 0, for each outcome of the function. -/
theorem reconstructionIsItsFunction : Obligations.ReconstructionIsItsFunction := by
  intro s _ hp hw hh hc
  obtain ⟨t, hrun, hend⟩ := core_run_fltRecon hp hw hh hc
  refine ⟨t, hrun, ?_⟩
  rw [Latch.source] at hend
  split
  next out hf =>
    have hlen := reconAll_length hc hf
    rw [hf] at hend
    obtain rfl : t = _ := hend
    refine ⟨hlen, ?_, ?_⟩
    · rw [hlen]
      rfl
    · rw [← s.firstRow_reconAddr]
      exact s.mem.stores_writeBytes _ out
  next f hf =>
    rw [hf] at hend
    exact hend

end Sys2Proof.Machine
end

section
/-! How the parse of a container fails (42_chunk.md R152, R153): at a wrong signature, or at the first offset behind a run of
complete chunks where no chunk fits. -/

namespace Sys2Proof.Machine

/-- Each chunk of a tiling takes at least 12 bytes (30_encoding.md R83). -/
theorem chunksTile_length {c : List Byte} {cs : List Chunk} {p q : Nat} (h : chunksTile c p cs q) :
    p + 12 * cs.length ≤ q := by
  induction cs generalizing p with
  | nil => exact Nat.le_of_eq h
  | cons e es ih =>
    obtain ⟨-, -, hrest⟩ := chunksTile_cons_iff.mp h
    have := ih hrest
    rw [List.length_cons]
    omega

theorem chunksTile_le {c : List Byte} {cs : List Chunk} {p q : Nat} (h : chunksTile c p cs q) : p ≤ q :=
  (Nat.le_add_right p _).trans (chunksTile_length h)

/-- No complete chunk stands at `p`: too few bytes are left for length and tag, or after them for data and trailer (R153). -/
def TruncatedAt (c : List Byte) (p : Nat) : Prop :=
  p < c.length ∧ (c.length - p < 8 ∨ c.length - p - 8 < be32At c p + 4)

theorem truncatedAt_iff {c : List Byte} {p : Nat} :
    TruncatedAt c p ↔ p < c.length ∧ c.length < p + 12 + be32At c p := by
  unfold TruncatedAt
  omega

/-- The loop fails where no complete chunk stands (R153). -/
theorem parseFrom_truncated {c : List Byte} {p : Nat} (fuel : Nat) (h : TruncatedAt c p) :
    parseFrom c (fuel + 1) p = .error ⟨.truncatedChunk, BitVec.ofNat 32 p⟩ := by
  obtain ⟨hlt, hshort⟩ := h
  rw [parseFrom, if_neg (by omega)]
  by_cases h8 : c.length - p < 8
  · rw [if_pos h8]
  · rw [if_neg h8, if_pos (hshort.resolve_left h8)]

/-- Behind a complete chunk the loop fails as it does from the next offset on. -/
theorem parseFrom_chunk_error_iff {c : List Byte} {fuel p : Nat} {f : Failure} (h : p + 12 + be32At c p ≤ c.length) :
    parseFrom c (fuel + 1) p = .error f ↔ parseFrom c fuel (p + 12 + be32At c p) = .error f := by
  rw [parseFrom_chunk fuel h]
  cases parseFrom c fuel (p + 12 + be32At c p) <;> simp [Except.map]

/-- A failing loop has met a run of complete chunks and then none. -/
theorem truncatedAt_of_parseFrom {c : List Byte} {fuel p : Nat} {f : Failure} (h : parseFrom c fuel p = .error f) :
    ∃ cs q, chunksTile c p cs q ∧ TruncatedAt c q ∧ f = ⟨.truncatedChunk, BitVec.ofNat 32 q⟩ := by
  induction fuel generalizing p with
  | zero => simp [parseFrom] at h
  | succ fuel ih =>
    by_cases hend : c.length ≤ p
    · simp [parseFrom_end _ hend] at h
    · by_cases hfits : p + 12 + be32At c p ≤ c.length
      · obtain ⟨cs, q, htile, htrunc, hf⟩ := ih ((parseFrom_chunk_error_iff hfits).mp h)
        exact ⟨⟨p, be32At c p, tagAt c p⟩ :: cs, q, chunksTile_cons_iff.mpr ⟨rfl, hfits, htile⟩, htrunc, hf⟩
      · have htrunc : TruncatedAt c p := truncatedAt_iff.mpr (by omega)
        rw [parseFrom_truncated fuel htrunc] at h
        exact ⟨[], p, rfl, htrunc, (Except.error.inj h).symm⟩

/-- A run of complete chunks with none behind it makes the loop fail there, if the fuel reaches that far. -/
theorem parseFrom_of_truncatedAt {c : List Byte} {fuel p q : Nat} {cs : List Chunk} (hfuel : c.length ≤ p + fuel)
    (htile : chunksTile c p cs q) (htrunc : TruncatedAt c q) :
    parseFrom c fuel p = .error ⟨.truncatedChunk, BitVec.ofNat 32 q⟩ := by
  have hp := chunksTile_le htile
  have hq : q < c.length := htrunc.1
  obtain ⟨fuel, rfl⟩ := Nat.exists_eq_succ_of_ne_zero (show fuel ≠ 0 by omega)
  induction cs generalizing fuel p with
  | nil =>
    obtain rfl : p = q := htile
    exact parseFrom_truncated fuel htrunc
  | cons e es ih =>
    obtain ⟨-, hfits, hrest⟩ := chunksTile_cons_iff.mp htile
    have hle := chunksTile_le hrest
    rw [parseFrom_chunk_error_iff hfits]
    obtain ⟨fuel, rfl⟩ := Nat.exists_eq_succ_of_ne_zero (show fuel ≠ 0 by omega)
    exact ih hrest hle fuel (by omega)

theorem parse_badSignature {f : ContainerFormat} {c : List Byte} (h : c.length < 8 ∨ c.take 8 ≠ f.sig) :
    parse f c = .error ⟨.badSignature, 0⟩ := by
  rw [parse]
  by_cases h8 : c.length < 8
  · rw [if_pos h8]
  · rw [if_neg h8, if_pos (bne_iff_ne.mpr (h.resolve_left h8))]

/-- With the signature in place the parse is its loop (R151, R152). -/
theorem parse_of_signature {f : ContainerFormat} {c : List Byte} (hlen : 8 ≤ c.length) (hsig : c.take 8 = f.sig) :
    parse f c = parseFrom c c.length 8 := by
  rw [parse, if_neg (by omega), if_neg (by simp [hsig])]

/-- Settles O42: the signature is wrong, or it is in place and the loop fails. -/
theorem parseFailures : Obligations.ParseFailures := by
  intro fmt c f
  by_cases hbad : c.length < 8 ∨ c.take 8 ≠ fmt.sig
  · rw [parse_badSignature hbad]
    refine ⟨fun h => .inl ⟨hbad, (Except.error.inj h).symm⟩, ?_⟩
    rintro (⟨-, rfl⟩ | ⟨hlen, hsig, -⟩)
    · rfl
    · exact absurd hbad (by simp [hlen, hsig])
  · obtain ⟨hlen, hsig⟩ := not_or.mp hbad
    rw [not_lt] at hlen
    rw [not_ne_iff] at hsig
    rw [parse_of_signature hlen hsig]
    constructor
    · intro h
      obtain ⟨cs, p, htile, ⟨hlt, hshort⟩, hf⟩ := truncatedAt_of_parseFrom h
      exact .inr ⟨hlen, hsig, cs, p, htile, hlt, hshort, hf⟩
    · rintro (⟨hbad', -⟩ | ⟨-, -, cs, p, htile, hlt, hshort, rfl⟩)
      · exact absurd hbad' hbad
      · exact parseFrom_of_truncatedAt (by omega) htile ⟨hlt, hshort⟩

end Sys2Proof.Machine
end

section
/-! The chunk commands after their region checks (42_chunk.md R150, R156 to R168): a framing error before anything of their
own, then their selection errors and DST_OVERFLOW, then what they commit (60_exceptions.md R194, R195). -/

namespace Sys2Proof.Machine

/-! ### The region checks and the parse -/

section

variable {s : State}

theorem exec_chkScan_of_regionsOk (h : s.regionsOk = true) : exec .chkScan s =
    .next (s.finish (chunkResult s.format none (s.latch.source s.mem) (scanOwn s.latch))) := by
  rw [exec, execChkScan, chkScanResult, checkRegions_of_regionsOk h]

theorem exec_chkIdat_of_regionsOk (h : s.regionsOk = true) : exec .chkIdat s =
    .next (s.finish (chunkResult s.format none (s.latch.source s.mem)
      (idatOwn s.format s.latch (s.latch.source s.mem)))) := by
  rw [exec, execChkIdat, chkIdatResult, checkRegions_of_regionsOk h]

theorem exec_chkInspad_of_regionsOk (h : s.regionsOk = true) : exec .chkInspad s =
    .next (s.finish (chunkResult s.format none (s.latch.source s.mem)
      (inspadOwn s.format s.latch (s.latch.source s.mem)))) := by
  rw [exec, execChkInspad, chkInspadResult, checkRegions_of_regionsOk h]

theorem exec_chkHdr_of_srcInRange (h : s.latch.srcInRange s.memSize.toNat = true) : exec .chkHdr s =
    .next (s.finish (chunkResult s.format none (s.latch.source s.mem)
      (hdrOwn s.format s.latch (s.latch.source s.mem)))) := by
  rw [exec, execChkHdr, chkHdrResult, checkSource_eq_none.mpr h]

theorem exec_chkPlen_of_srcInRange (h : s.latch.srcInRange s.memSize.toNat = true) : exec .chkPlen s =
    .next (s.finish (chunkResult s.format none (s.latch.source s.mem)
      (plenOwn s.format (s.latch.source s.mem)))) := by
  rw [exec, execChkPlen, chkPlenResult, checkSource_eq_none.mpr h]

end

section

variable (s : State) {f : ContainerFormat} {c : List Byte} {own : List Chunk → Except Failure Commit}

/-- A framing error ends a chunk command before its own part (R150). -/
theorem State.finish_chunkResult_of_parse_error {e : Failure} (hp : parse f c = .error e) :
    s.finish (chunkResult f none c own) = s.fail e := by
  rw [chunkResult, hp]
  rfl

/-- An error of its own part ends a chunk command whose source parses (R150). -/
theorem State.finish_chunkResult_of_own_error {cs : List Chunk} {e : Failure} (hp : parse f c = .ok cs)
    (ho : own cs = .error e) : s.finish (chunkResult f none c own) = s.fail e := by
  rw [chunkResult_of_parse hp, ho]
  rfl

/-- What its own part commits, a chunk command commits with CHUNK_COUNT (R156). -/
theorem State.finish_chunkResult_of_own_ok {cs : List Chunk} {k : Commit} (hp : parse f c = .ok cs) (ho : own cs = .ok k) :
    s.finish (chunkResult f none c own) =
      s.commit { k with chunkCount := some (BitVec.ofNat 32 cs.length) } := by
  rw [chunkResult_of_parse hp, ho]
  rfl

end

/-- Settles O43: past its region check each of the five commands is `chunkResult`. -/
theorem chunkCommandsParseFirst : Obligations.ChunkCommandsParseFirst := by
  intro s f (hp : parse s.format (s.latch.source s.mem) = .error f)
  refine ⟨fun i hi hr => ?_, fun i hi hsrc => ?_⟩
  · simp only [List.mem_cons, List.not_mem_nil, or_false] at hi
    rcases hi with rfl | rfl | rfl
    · rw [exec_chkScan_of_regionsOk hr, State.finish_chunkResult_of_parse_error s hp]
    · rw [exec_chkIdat_of_regionsOk hr, State.finish_chunkResult_of_parse_error s hp]
    · rw [exec_chkInspad_of_regionsOk hr, State.finish_chunkResult_of_parse_error s hp]
  · simp only [List.mem_cons, List.not_mem_nil, or_false] at hi
    rcases hi with rfl | rfl
    · rw [exec_chkHdr_of_srcInRange hsrc, State.finish_chunkResult_of_parse_error s hp]
    · rw [exec_chkPlen_of_srcInRange hsrc, State.finish_chunkResult_of_parse_error s hp]

/-! ### The commands' own parts -/

/-- A register's value saturates to itself (00_scope.md R10). -/
@[simp] theorem sat32_toNat (w : Word) : sat32 w.toNat = w := BitVec.eq_of_toNat_eq (sat32_of_lt w.isLt)

section

variable {f : ContainerFormat} {o : Latch} {c : List Byte} {cs : List Chunk} {e : Chunk}

theorem hdrOwn_of_none (h : firstChunk cs f.tagHdr = none) : hdrOwn f o c cs = .error ⟨.missingHeader, o.srcLen⟩ := by
  simp only [hdrOwn, h, sat32_toNat]

theorem hdrOwn_of_short (h : firstChunk cs f.tagHdr = some e) (hlen : e.length < 8) :
    hdrOwn f o c cs = .error ⟨.shortField, BitVec.ofNat 32 e.offset⟩ := by
  simp only [hdrOwn, h, if_pos hlen]

theorem hdrOwn_of_some (h : firstChunk cs f.tagHdr = some e) (hlen : 8 ≤ e.length) :
    hdrOwn f o c cs = .ok
      { width := some (BitVec.ofNat 32 (be32At c (e.offset + 8)))
        height := some (BitVec.ofNat 32 (be32At c (e.offset + 12))) } := by
  simp only [hdrOwn, h, if_neg (Nat.not_lt.mpr hlen)]

theorem plenOwn_of_none (h : firstChunk cs f.tagPad = none) : plenOwn f c cs = .ok { padLen := some 0 } := by
  simp only [plenOwn, h]

theorem plenOwn_of_short (h : firstChunk cs f.tagPad = some e) (hlen : e.length < 4) :
    plenOwn f c cs = .error ⟨.shortField, BitVec.ofNat 32 e.offset⟩ := by
  simp only [plenOwn, h, if_pos hlen]

theorem plenOwn_of_some (h : firstChunk cs f.tagPad = some e) (hlen : 4 ≤ e.length) :
    plenOwn f c cs = .ok { padLen := some (BitVec.ofNat 32 (be32At c (e.offset + 8))) } := by
  simp only [plenOwn, h, if_neg (Nat.not_lt.mpr hlen)]

theorem idatOwn_of_nil (h : allChunks cs f.tagDat = []) : idatOwn f o c cs = .error ⟨.missingPayload, o.srcLen⟩ := by
  simp only [idatOwn, h, sat32_toNat]

/-- With a data chunk CHK_IDAT comes to the capacity check on the concatenation (R160, R161). -/
theorem idatOwn_of_ne_nil (h : allChunks cs f.tagDat ≠ []) :
    idatOwn f o c cs =
      outputOf o ((allChunks cs f.tagDat).map Chunk.length).sum ((allChunks cs f.tagDat).flatMap (chunkData c)) := by
  obtain ⟨e, es, hes⟩ := List.exists_cons_of_ne_nil h
  simp only [idatOwn, hes]

theorem inspadOwn_of_none (h : firstChunk cs f.tagEnd = none) :
    inspadOwn f o c cs = .error ⟨.missingEndMarker, o.srcLen⟩ := by
  simp only [inspadOwn, h, sat32_toNat]

/-- With an end marker CHK_INSPAD comes to the capacity check on the source with the pad chunk (R164). -/
theorem inspadOwn_of_some (h : firstChunk cs f.tagEnd = some e) :
    inspadOwn f o c cs = outputOf o (o.srcLen.toNat + 16) (insertAt f c e.offset o.padLen) := by
  simp only [inspadOwn, h]

end

/-- Settles O49: each error of the own parts, after a parse that succeeds. -/
theorem chunkSelectionErrors : Obligations.ChunkSelectionErrors := by
  intro s cs c dat (hp : parse s.format (s.latch.source s.mem) = .ok cs)
  refine ⟨fun hsrc => ?_, fun hr => ?_⟩
  · rw [exec_chkHdr_of_srcInRange hsrc, exec_chkPlen_of_srcInRange hsrc]
    refine ⟨fun hnone => ?_, fun e he hshort => ?_, fun e he hshort => ?_⟩
    · rw [State.finish_chunkResult_of_own_error s hp (hdrOwn_of_none hnone)]
    · rw [State.finish_chunkResult_of_own_error s hp (hdrOwn_of_short he hshort)]
    · rw [State.finish_chunkResult_of_own_error s hp (plenOwn_of_short he hshort)]
  · rw [exec_chkIdat_of_regionsOk hr, exec_chkInspad_of_regionsOk hr]
    refine ⟨fun hnil => ?_, fun hdat hcap => ?_, fun hnone => ?_, fun e he hcap => ?_⟩
    · rw [State.finish_chunkResult_of_own_error s hp (idatOwn_of_nil hnil)]
    · rw [State.finish_chunkResult_of_own_error s hp ((idatOwn_of_ne_nil hdat).trans (outputOf_of_lt _ hcap))]
      rfl
    · rw [State.finish_chunkResult_of_own_error s hp (inspadOwn_of_none hnone)]
    · rw [State.finish_chunkResult_of_own_error s hp ((inspadOwn_of_some he).trans (outputOf_of_lt _ hcap))]
      rfl

/-! ### The commits -/

/-- CHUNK_COUNT holds the number of chunks of a source exactly (R156, log 20). -/
theorem toNat_chunkCount {f : ContainerFormat} {o : Latch} {m : Memory} {cs : List Chunk}
    (hp : parse f (o.source m) = .ok cs) : (BitVec.ofNat 32 cs.length).toNat = cs.length := by
  obtain ⟨-, -, htile⟩ := (parseTilesContainer f (o.source m) cs).mp hp
  have hlen := chunksTile_length htile
  rw [Latch.source_length] at hlen
  exact toNat_ofNat_of_le (w := o.srcLen) (by omega)

/-- A register holds a big-endian word of a container exactly (00_scope.md R11). -/
theorem toNat_ofNat_be32At (c : List Byte) (p : Nat) : (BitVec.ofNat 32 (be32At c p)).toNat = be32At c p :=
  (BitVec.toNat_ofNat ..).trans (Nat.mod_eq_of_lt (be32At_lt c p))

/-- Settles O45: the commit of the first header chunk's two words. -/
theorem chkHdrExtracts : Obligations.ChkHdrExtracts := by
  intro s cs e hsrc c (hp : parse s.format (s.latch.source s.mem) = .ok cs) he hlen
  rw [exec_chkHdr_of_srcInRange hsrc, State.finish_chunkResult_of_own_ok s hp (hdrOwn_of_some he hlen)]
  exact ⟨_, rfl, rfl, toNat_ofNat_be32At c _, toNat_ofNat_be32At c _, toNat_chunkCount hp⟩

/-- Settles O47: the commit without a pad chunk, and that of the first one's word. -/
theorem chkPlenReads : Obligations.ChkPlenReads := by
  intro s cs hsrc c (hp : parse s.format (s.latch.source s.mem) = .ok cs)
  rw [exec_chkPlen_of_srcInRange hsrc]
  refine ⟨fun hnone => ?_, fun e he hlen => ?_⟩
  · rw [State.finish_chunkResult_of_own_ok s hp (plenOwn_of_none hnone)]
    exact ⟨_, rfl, rfl, toNat_chunkCount hp⟩
  · rw [State.finish_chunkResult_of_own_ok s hp (plenOwn_of_some he hlen)]
    exact ⟨_, rfl, rfl, toNat_ofNat_be32At c _, toNat_chunkCount hp⟩

/-- Settles O46: the commit of the concatenation, whose length is the sum of the data chunks' lengths. -/
theorem chkIdatConcatenates : Obligations.ChkIdatConcatenates := by
  intro s cs hr c dat (hp : parse s.format (s.latch.source s.mem) = .ok cs) hdat hcap
  have hlen : (dat.flatMap (chunkData c)).length = (dat.map Chunk.length).sum :=
    flatMap_chunkData_length fun e he => (parse_inside hp e (List.mem_of_mem_filter he)).1
  have hsum := toNat_ofNat_of_le hcap
  rw [exec_chkIdat_of_regionsOk hr,
    State.finish_chunkResult_of_own_ok s hp ((idatOwn_of_ne_nil hdat).trans (outputOf_of_le _ hcap))]
  exact ⟨_, rfl, rfl, hsum, toNat_chunkCount hp, s.mem.stores_writeBytes _ _, hlen.trans hsum.symm⟩

/-- Settles O48: the commit of the source with the pad chunk, inserted at an offset inside the source. -/
theorem chkInspadInserts : Obligations.ChkInspadInserts := by
  refine ⟨rfl, ?_⟩
  intro s cs e hr c (hp : parse s.format (s.latch.source s.mem) = .ok cs) he hcap
  obtain ⟨hend, -⟩ := parse_inside hp e (firstChunk_mem he)
  have hinside : e.offset ≤ (s.latch.source s.mem).length := by omega
  rw [exec_chkInspad_of_regionsOk hr,
    State.finish_chunkResult_of_own_ok s hp ((inspadOwn_of_some he).trans (outputOf_of_le _ hcap))]
  exact ⟨_, rfl, rfl, toNat_ofNat_of_le hcap, toNat_chunkCount hp, s.mem.stores_writeBytes _ _, hinside⟩

end Sys2Proof.Machine
end

section
/-! A container with a pad chunk inserted (42_chunk.md R164 to R169). Each of its three parts stands in it as it stands in the
string it is from, some way further on; what the parse reads of a chunk moves with the bytes. -/

namespace Sys2Proof.Machine

/-! ### Bytes carried from one string into another -/

/-- The bytes `[p, q)` of `c` stand in `d`, `k` bytes further on. -/
def CarriedBy (k : Nat) (c d : List Byte) (p q : Nat) : Prop :=
  q + k ≤ d.length ∧ ∀ i, p ≤ i → i < q → d.getD (i + k) 0 = c.getD i 0

/-- The chunk `k` bytes further on. -/
def Chunk.shift (k : Nat) (e : Chunk) : Chunk := { e with offset := e.offset + k }

theorem Chunk.shift_zero : Chunk.shift 0 = id := rfl

theorem chunkData_getElem {c : List Byte} {e : Chunk} {j : Nat} (h : j < (chunkData c e).length) :
    (chunkData c e)[j] = c.getD (e.offset + 8 + j) 0 := by
  have hlt : e.offset + 8 + j < c.length := by
    rw [chunkData, List.length_take, List.length_drop] at h
    omega
  rw [List.getD_eq_getElem _ _ hlt]
  simp only [chunkData, List.getElem_take, List.getElem_drop]

theorem CarriedBy.middle (a b d : List Byte) : CarriedBy a.length b (a ++ b ++ d) 0 b.length := by
  refine ⟨by simp; omega, fun i _ hi => ?_⟩
  rw [List.getD_append _ _ _ _ (by simp; omega), List.getD_append_right _ _ _ _ (by omega), Nat.add_sub_cancel]

section

variable {k p q : Nat} {c d : List Byte} (h : CarriedBy k c d p q)
include h

theorem CarriedBy.getD_add {a : Nat} (j : Nat) (hlo : p ≤ a) (hhi : a + j < q) :
    d.getD (a + k + j) 0 = c.getD (a + j) 0 := by
  rw [Nat.add_right_comm]
  exact h.2 _ (by omega) hhi

theorem CarriedBy.be32At {a : Nat} (hlo : p ≤ a) (hhi : a + 4 ≤ q) : be32At d (a + k) = be32At c a := by
  rw [Machine.be32At, h.2 a hlo (by omega), h.getD_add 1 hlo (by omega), h.getD_add 2 hlo (by omega),
    h.getD_add 3 hlo (by omega), ← Machine.be32At]

theorem CarriedBy.tagAt {a : Nat} (hlo : p ≤ a) (hhi : a + 8 ≤ q) : tagAt d (a + k) = tagAt c a := by
  rw [Machine.tagAt, h.getD_add 4 hlo (by omega), h.getD_add 5 hlo (by omega), h.getD_add 6 hlo (by omega),
    h.getD_add 7 hlo (by omega), ← Machine.tagAt]

/-- A chunk's data moves with its bytes. -/
theorem CarriedBy.chunkData {e : Chunk} (hlo : p ≤ e.offset) (hhi : e.offset + 12 + e.length ≤ q)
    (hq : q ≤ c.length) : chunkData d (e.shift k) = chunkData c e := by
  have hd := h.1
  have hlen : (Machine.chunkData d (e.shift k)).length = e.length :=
    chunkData_length (show e.offset + k + 12 + e.length ≤ d.length by omega)
  refine List.ext_getElem (by rw [hlen, chunkData_length (by omega)]) fun j hj _ => ?_
  rw [chunkData_getElem, chunkData_getElem, Nat.add_assoc, Nat.add_assoc]
  exact h.getD_add (8 + j) hlo (by omega)

/-- A tiling moves with its bytes. -/
theorem CarriedBy.chunksTile {cs : List Chunk} {a : Nat} (hlo : p ≤ a) (htile : chunksTile c a cs q) :
    chunksTile d (a + k) (cs.map (Chunk.shift k)) (q + k) := by
  induction cs generalizing a with
  | nil => exact congrArg (· + k) htile
  | cons e es ih =>
    obtain ⟨rfl, hfits, hrest⟩ := chunksTile_cons_iff.mp htile
    have hle := chunksTile_le hrest
    have hend := h.1
    have hrest' := ih (by omega) hrest
    rw [List.map_cons, chunksTile_cons_iff, h.be32At hlo (by omega), h.tagAt hlo (by omega)]
    refine ⟨rfl, by omega, ?_⟩
    convert hrest' using 1
    omega

end

/-! ### The parts of a tiling -/

theorem chunksTile_append_iff {c : List Byte} {as bs : List Chunk} {p r : Nat} :
    chunksTile c p (as ++ bs) r ↔ ∃ q, chunksTile c p as q ∧ chunksTile c q bs r := by
  induction as generalizing p with
  | nil => simp [chunksTile]
  | cons a as ih =>
    simp only [List.cons_append, chunksTile_cons_iff, ih]
    exact ⟨fun ⟨ha, hfits, q, has, hbs⟩ => ⟨q, ⟨ha, hfits, has⟩, hbs⟩,
      fun ⟨q, ⟨ha, hfits, has⟩, hbs⟩ => ⟨ha, hfits, q, has, hbs⟩⟩

/-- A chunk of a tiling lies between its ends. -/
theorem chunksTile_inside {c : List Byte} {cs : List Chunk} {p q : Nat} (h : chunksTile c p cs q) :
    ∀ e ∈ cs, p ≤ e.offset ∧ e.offset + 12 + e.length ≤ q := by
  induction cs generalizing p with
  | nil => simp
  | cons x xs ih =>
    obtain ⟨rfl, -, hrest⟩ := chunksTile_cons_iff.mp h
    intro e he
    rcases List.mem_cons.mp he with rfl | he
    · exact ⟨le_rfl, chunksTile_le hrest⟩
    · obtain ⟨hlo, hhi⟩ := ih hrest e he
      exact ⟨by omega, hhi⟩

/-! ### The parts of the container -/

section

variable {f : ContainerFormat} {c : List Byte} {q : Nat} (v : Word) (hq : q ≤ c.length)
include hq

theorem insertAt_head : CarriedBy 0 c (insertAt f c q v) 0 q := by
  refine ⟨by simp [insertAt]; omega, fun i _ hi => ?_⟩
  rw [Nat.add_zero, insertAt, List.append_assoc, List.getD_append _ _ _ _ (by rwa [List.length_take_of_le hq]),
    List.getD_eq_getElem?_getD, List.getElem?_take_of_lt hi, ← List.getD_eq_getElem?_getD]

theorem insertAt_pad (hpad : f.tagPad.length = 4) : CarriedBy q (padChunk f v) (insertAt f c q v) 0 16 := by
  have h := CarriedBy.middle (c.take q) (padChunk f v) (c.drop q)
  rwa [List.length_take_of_le hq, padChunk_length v hpad] at h

theorem insertAt_tail (hpad : f.tagPad.length = 4) : CarriedBy 16 c (insertAt f c q v) q c.length := by
  refine ⟨(insertAt_length v hpad hq).ge, fun i hlo _ => ?_⟩
  have hlen : (c.take q ++ padChunk f v).length = q + 16 := by
    rw [List.length_append, List.length_take_of_le hq, padChunk_length v hpad]
  have hidx : q + (i + 16 - (q + 16)) = i := by omega
  rw [insertAt, List.getD_append_right _ _ _ _ (by omega), hlen, List.getD_eq_getElem?_getD, List.getElem?_drop, hidx,
    ← List.getD_eq_getElem?_getD]

end

theorem padChunk_be32At (f : ContainerFormat) (v : Word) : be32At (padChunk f v) 0 = 4 := by
  simp [be32At, padChunk, be32]

theorem padChunk_tagAt {f : ContainerFormat} (v : Word) (hpad : f.tagPad.length = 4) :
    tagAt (padChunk f v) 0 = f.tagPad := by
  obtain ⟨t0, t1, t2, t3, htag⟩ := List.length_eq_four.mp hpad
  rw [padChunk, htag]
  rfl

/-- The pad chunk is one complete chunk of length 4 (R167, R168). -/
theorem padChunk_tile {f : ContainerFormat} (v : Word) (hpad : f.tagPad.length = 4) :
    chunksTile (padChunk f v) 0 [⟨0, 4, f.tagPad⟩] 16 :=
  ⟨rfl, (padChunk_be32At f v).symm, (padChunk_tagAt v hpad).symm, (padChunk_length v hpad).ge, rfl⟩

theorem padChunk_value {f : ContainerFormat} (v : Word) (hpad : f.tagPad.length = 4) :
    be32At (padChunk f v) 8 = v.toNat := by
  have h := CarriedBy.middle ([0, 0, 0, 4] ++ f.tagPad) (bytesBe32 v) [0, 0, 0, 0]
  rw [List.length_append, hpad] at h
  exact (h.be32At le_rfl le_rfl).trans (be32At_bytesBe32 v)

/-- Settles O50: the tiling of the container before the end marker, the pad chunk, and the tiling from the end marker on, each
where its bytes stand. -/
theorem insertedContainerParses : Obligations.InsertedContainerParses := by
  intro fmt c before after e v hwf hp _ _
  obtain ⟨-, -, -, -, hpad⟩ := ContainerFormat.lengths hwf
  obtain ⟨hlen, hsig, htile⟩ := (parseTilesContainer fmt c _).mp hp
  obtain ⟨q, hbefore, hafter⟩ := chunksTile_append_iff.mp htile
  obtain rfl : e.offset = q := hafter.1
  have h8 := chunksTile_le hbefore
  have hq := chunksTile_le hafter
  have hhead := insertAt_head (f := fmt) v hq
  have hmid := insertAt_pad v hq hpad
  have htail := insertAt_tail v hq hpad
  refine ⟨(parseTilesContainer fmt _ _).mpr ⟨?_, ?_, ?_⟩, ?_, fun b hb => ?_, fun a ha => ?_⟩
  · rw [insertAt_length v hpad hq]
    omega
  · rw [insertAt, List.append_assoc, List.take_append_of_le_length (by rwa [List.length_take_of_le hq]), List.take_take,
      Nat.min_eq_left h8, hsig]
  · rw [insertAt_length v hpad hq]
    have hb := hhead.chunksTile (Nat.zero_le 8) hbefore
    have hm := hmid.chunksTile le_rfl (padChunk_tile v hpad)
    have ha := htail.chunksTile le_rfl hafter
    rw [Chunk.shift_zero, List.map_id] at hb
    rw [Nat.zero_add, Nat.add_comm 16, List.map_singleton, Chunk.shift, Nat.zero_add] at hm
    exact chunksTile_append_iff.mpr ⟨e.offset, hb, chunksTile_append_iff.mpr ⟨e.offset + 16, hm, ha⟩⟩
  · rw [Nat.add_comm]
    exact (hmid.be32At (a := 8) (by omega) (by omega)).trans (padChunk_value v hpad)
  · obtain ⟨-, hhi⟩ := chunksTile_inside hbefore b hb
    exact hhead.chunkData (Nat.zero_le _) hhi hq
  · obtain ⟨hlo, hhi⟩ := chunksTile_inside hafter a ha
    exact htail.chunkData hlo hhi le_rfl

end Sys2Proof.Machine
end

section
/-! The unpack sequence on a container with a pad chunk inserted (43_orchestration.md R182, R183, R185). Every chunk of the
container is found again under its tag, with its data; the one new chunk is the pad chunk. -/

namespace Sys2Proof.Machine

/-! ### Words in a chunk's data -/

/-- A big-endian word of a complete chunk's data stands in the container behind the chunk's length and tag (R83). -/
theorem be32At_chunkData {c : List Byte} {x : Chunk} {j : Nat} (hx : x.offset + 12 + x.length ≤ c.length)
    (hj : j + 4 ≤ x.length) : be32At (chunkData c x) j = be32At c (x.offset + 8 + j) := by
  have hlen := chunkData_length hx
  have hcarried : CarriedBy (x.offset + 8) (chunkData c x) c 0 x.length := by
    refine ⟨by omega, fun i _ hi => ?_⟩
    rw [List.getD_eq_getElem _ _ (hi.trans_eq hlen.symm), chunkData_getElem, Nat.add_comm]
  rw [Nat.add_comm (x.offset + 8)]
  exact (hcarried.be32At (Nat.zero_le j) hj).symm

/-- Complete chunks with the same data hold the same words. -/
theorem be32At_of_chunkData_eq {c d : List Byte} {x y : Chunk} {j : Nat} (hx : x.offset + 12 + x.length ≤ c.length)
    (hy : y.offset + 12 + y.length ≤ d.length) (h : chunkData d y = chunkData c x) (hj : j + 4 ≤ x.length) :
    be32At d (y.offset + 8 + j) = be32At c (x.offset + 8 + j) := by
  have hlen : y.length = x.length := by rw [← chunkData_length hy, h, chunkData_length hx]
  rw [← be32At_chunkData hx hj, ← h, be32At_chunkData hy (hlen ▸ hj)]

/-! ### The chunks around an inserted pad chunk -/

/-- Where a chunk stands after 16 bytes have been inserted at offset `q`. -/
def Chunk.after (q : Nat) (x : Chunk) : Chunk := if x.offset < q then x else x.shift 16

theorem Chunk.after_of_lt {q : Nat} {x : Chunk} (h : x.offset < q) : x.after q = x := if_pos h

theorem Chunk.after_of_le {q : Nat} {x : Chunk} (h : q ≤ x.offset) : x.after q = x.shift 16 := if_neg h.not_gt

@[simp] theorem Chunk.after_tag (q : Nat) (x : Chunk) : (x.after q).tag = x.tag := by
  rcases lt_or_ge x.offset q with h | h
  · rw [after_of_lt h]
  · rw [after_of_le h, shift]

@[simp] theorem Chunk.after_length (q : Nat) (x : Chunk) : (x.after q).length = x.length := by
  rcases lt_or_ge x.offset q with h | h
  · rw [after_of_lt h]
  · rw [after_of_le h, shift]

section

variable {t : List Byte} {q : Nat} {before behind : List Chunk} {pad : Chunk}

/-- An inserted chunk of another tag leaves the first chunk of a tag the first (42_chunk.md R155). -/
theorem firstChunk_around (h : pad.tag ≠ t) :
    firstChunk (before.map (Chunk.after q) ++ pad :: behind.map (Chunk.after q)) t =
      (firstChunk (before ++ behind) t).map (Chunk.after q) := by
  simp [firstChunk, List.find?_append, List.find?_map, h, Option.map_or]

/-- An inserted chunk of another tag leaves all chunks of a tag in their order (R155). -/
theorem allChunks_around (h : pad.tag ≠ t) :
    allChunks (before.map (Chunk.after q) ++ pad :: behind.map (Chunk.after q)) t =
      (allChunks (before ++ behind) t).map (Chunk.after q) := by
  simp [allChunks, List.filter_map, Function.comp_def, h]

/-- An inserted chunk is the first of its tag where there was none. -/
theorem firstChunk_inserted (h : firstChunk (before ++ behind) pad.tag = none) :
    firstChunk (before.map (Chunk.after q) ++ pad :: behind.map (Chunk.after q)) pad.tag = some pad := by
  have hbefore : before.find? (fun x => x.tag == pad.tag) = none := by
    simp only [firstChunk, List.find?_append, Option.or_eq_none_iff] at h
    exact h.1
  simp [firstChunk, List.find?_append, List.find?_map, hbefore]

end

/-! ### The container with the pad chunk -/

/-- The first end marker parts the chunks: those before it, and from it on. -/
theorem exists_parts_of_firstChunk {cs : List Chunk} {t : List Byte} {e : Chunk} (h : firstChunk cs t = some e) :
    e.tag = t ∧ ∃ before rest, cs = before ++ e :: rest ∧ ∀ b ∈ before, b.tag ≠ t := by
  obtain ⟨htag, before, rest, hcs, hbefore⟩ := List.find?_eq_some_iff_append.mp h
  exact ⟨by simpa using htag, before, rest, hcs, by simpa using hbefore⟩

/-- The inserted container parses to the pad chunk, which holds its value, and around it to the chunks of the container, each
with its data (R165 to R169). -/
theorem parse_insertAt {f : ContainerFormat} {c : List Byte} {cs : List Chunk} {e : Chunk} (v : Word)
    (hf : f.wellFormed = true) (hp : parse f c = .ok cs) (he : firstChunk cs f.tagEnd = some e) :
    ∃ before behind, cs = before ++ behind ∧
      parse f (insertAt f c e.offset v) =
        .ok (before.map (Chunk.after e.offset) ++ ⟨e.offset, 4, f.tagPad⟩ :: behind.map (Chunk.after e.offset)) ∧
      be32At (insertAt f c e.offset v) (e.offset + 8) = v.toNat ∧
      ∀ x ∈ cs, chunkData (insertAt f c e.offset v) (x.after e.offset) = chunkData c x := by
  obtain ⟨htag, before, rest, rfl, hnot⟩ := exists_parts_of_firstChunk he
  obtain ⟨hparse, hvalue, hdata, hdata'⟩ := insertedContainerParses f c before rest e v hf hp hnot htag
  obtain ⟨-, -, htile⟩ := (parseTilesContainer f c _).mp hp
  obtain ⟨q, hbefore, hbehind⟩ := chunksTile_append_iff.mp htile
  obtain rfl : e.offset = q := hbehind.1
  have hlo : ∀ x ∈ before, x.after e.offset = x := fun x hx => Chunk.after_of_lt (by
    have := chunksTile_inside hbefore x hx
    omega)
  have hhi : ∀ x ∈ e :: rest, x.after e.offset = x.shift 16 := fun x hx =>
    Chunk.after_of_le (chunksTile_inside hbehind x hx).1
  refine ⟨before, e :: rest, rfl, ?_, hvalue, fun x hx => ?_⟩
  · rw [List.map_congr_left hlo, List.map_congr_left hhi, List.map_id']
    exact hparse
  · rcases List.mem_append.mp hx with hx | hx
    · rw [hlo x hx]
      exact hdata x hx
    · rw [hhi x hx]
      exact hdata' x hx

/-- With a first pad chunk that is long enough, its word is the pad length (R162). -/
theorem padLengthOf_of_some {f : ContainerFormat} {c : List Byte} {cs : List Chunk} {x : Chunk}
    (h : firstChunk cs f.tagPad = some x) (hlen : 4 ≤ x.length) : padLengthOf f c cs = some (be32At c (x.offset + 8)) := by
  simp only [padLengthOf, h, if_neg (Nat.not_lt.mpr hlen)]

/-- What the chunk commands read back from an encoder's container with the pad chunk inserted: the dimensions, the compressed
data and the pad length (R181 to R183). -/
theorem insertAt_reads {f : ContainerFormat} {c data : List Byte} {width height : Nat} {cs : List Chunk} {e : Chunk} (v : Word)
    (hf : f.wellFormed = true) (hduty : encoderDuty f c data width height) (hp : parse f c = .ok cs)
    (he : firstChunk cs f.tagEnd = some e) :
    ∃ cs' h, parse f (insertAt f c e.offset v) = .ok cs' ∧ firstChunk cs' f.tagHdr = some h ∧ 8 ≤ h.length ∧
      be32At (insertAt f c e.offset v) (h.offset + 8) = width ∧
      be32At (insertAt f c e.offset v) (h.offset + 12) = height ∧
      allChunks cs' f.tagDat ≠ [] ∧
      (allChunks cs' f.tagDat).flatMap (chunkData (insertAt f c e.offset v)) = data ∧
      padLengthOf f (insertAt f c e.offset v) cs' = some v.toNat := by
  obtain ⟨cs₀, h, -, hp₀, hhdr, hlen, hwidth, hheight, hne, hdata, -, hnopad⟩ := hduty
  obtain rfl : cs₀ = cs := Except.ok.inj (hp₀.symm.trans hp)
  obtain ⟨-, -, hhp, -, hdp, -⟩ := ContainerFormat.tags_distinct hf
  obtain ⟨before, behind, rfl, hparse, hvalue, hkept⟩ := parse_insertAt v hf hp he
  have hhdr' := (firstChunk_around (q := e.offset) (pad := ⟨e.offset, 4, f.tagPad⟩) hhp.symm).trans (congrArg _ hhdr)
  have hdat := allChunks_around (before := before) (behind := behind) (q := e.offset)
    (pad := ⟨e.offset, 4, f.tagPad⟩) hdp.symm
  have hmem := firstChunk_mem hhdr
  have hword : ∀ j, j + 4 ≤ h.length → be32At (insertAt f c e.offset v) ((h.after e.offset).offset + 8 + j) =
      be32At c (h.offset + 8 + j) := fun j =>
    be32At_of_chunkData_eq (parse_inside hp h hmem).1 (parse_inside hparse _ (firstChunk_mem hhdr')).1 (hkept h hmem)
  refine ⟨_, h.after e.offset, hparse, hhdr', ?_, ?_, ?_, ?_, ?_, ?_⟩
  · rwa [Chunk.after_length]
  · exact (hword 0 (by omega)).trans hwidth
  · exact (hword 4 (by omega)).trans hheight
  · rwa [hdat, Ne, List.map_eq_nil_iff]
  · rw [hdat, List.flatMap_map, ← hdata]
    exact List.flatMap_congr fun x hx => hkept x (List.mem_of_mem_filter hx)
  · rw [padLengthOf_of_some (firstChunk_inserted hnopad) le_rfl, hvalue]

/-- Settles O51: what is read back from the container is what R183 says the encoder was given, so the reconstruction is the grid
of the payload, and the mapper takes it back. -/
theorem unpackInvertsPack : Obligations.UnpackInvertsPack := by
  intro f maxDim payload scanlines container compress decompress cs e hf _ hfilter hencoder hinverse hp he hpad
  obtain ⟨cs', h, hparse, hhdr, hlen, hwidth, hheight, hdat, hdata, hplen⟩ :=
    insertAt_reads (BitVec.ofNat 32 (gridPad maxDim payload.length)) hf hencoder hp he
  rw [BitVec.toNat_ofNat, Nat.mod_eq_of_lt hpad] at hplen
  refine ⟨cs', h, _, gridOf maxDim payload, hparse, hhdr, hlen, hdat, hplen, ?_, ?_, payloadOf_gridOf maxDim payload⟩
  · rw [hwidth, hheight, hdata, hinverse]
    exact hfilter
  · rw [gridOf_length]
    exact gridPad_le_gridTotal maxDim payload.length

end Sys2Proof.Machine
end

section
/-! The host's duties, transaction by transaction (43_orchestration.md R184, 60_exceptions.md R202): one that keeps them is
taken by the port, is never dropped with OVR and reaches no hidden byte. -/

namespace Sys2Proof.Machine

/-! ### What draws and OVR see of an access -/

theorem State.abort_of_idle {s : State} (hb : s.busy = false) : s.abort = s := by
  simp [State.abort, hb]

@[simp] theorem State.afterRead_ovr (s : State) (r : Option Reg) : (s.afterRead r).ovr = s.ovr := by
  rcases s.afterRead_cases r with h | ⟨h, -, -⟩
  · rw [h]
  · rw [h, State.observe_ovr]

@[simp] theorem State.afterRead_draws (s : State) (r : Option Reg) : (s.afterRead r).draws = s.draws := by
  rcases s.afterRead_cases r with h | ⟨h, -, -⟩
  · rw [h]
  · rw [h, State.observe_draws]

/-- A write of CTRL sets no OVR, busy or not (R61): a soft reset clears it (70_reset_and_hazards.md R222). -/
theorem State.writeCtrl_ovr {s : State} {v : Word} (h : (s.writeCtrl v).ovr = true) : s.ovr = true := by
  cases hv : v.getLsbD 1 with
  | false => rwa [State.writeCtrl_irqEn hv] at h
  | true => simp [State.writeCtrl, hv] at h

/-- A write of CTRL draws nothing, unless it aborts a command (R223). -/
theorem State.writeCtrl_draws {s : State} {v : Word} (h : s.busy = false ∨ v.getLsbD 1 = false) :
    (s.writeCtrl v).draws = s.draws := by
  cases hv : v.getLsbD 1 with
  | false => rw [State.writeCtrl_irqEn hv]
  | true =>
    have hb : s.busy = false := h.resolve_right (by simp [hv])
    rw [State.writeCtrl, if_pos hv, State.softReset_draws, State.abort_of_idle hb]

/-- While BUSY = 0 no register write is dropped, and none draws (R61). -/
theorem State.writeReg_of_idle {s : State} (hb : s.busy = false) (r : Option Reg) (v : Word) :
    ((s.writeReg r v).ovr = true → s.ovr = true) ∧ (s.writeReg r v).draws = s.draws := by
  rcases r with _ | r
  · exact ⟨fun h => h, rfl⟩
  cases r with
  | ctrl => exact ⟨State.writeCtrl_ovr, State.writeCtrl_draws (.inl hb)⟩
  | status => exact ⟨fun h => (Bool.and_eq_true_iff.mp h).1, rfl⟩
  | cmd | srcAddr | srcLen | dstAddr | dstCap | width | height | padLen =>
    rw [State.writeReg, State.ifIdle_idle hb]
    exact ⟨fun h => h, rfl⟩
  | id | memSize | maxDim | errCode | errInfo | dstLen | chunkCount => exact ⟨fun h => h, rfl⟩

/-! ### What the duties say of each kind of access -/

section

variable {v : Watch} {s : State} {w : Width} {d : Word}

theorem Watch.taken_of_allows {t : Txn} (h : v.allows s t = true) : t.taken s.memSize.toNat = true :=
  (Bool.and_eq_true_iff.mp h).1

theorem Watch.idle_of_allows_memWrite {a : Nat} (h : v.allows s ⟨.write, .mem a, w, d⟩ = true) : s.busy = false := by
  simpa using (Bool.and_eq_true_iff.mp h).2

theorem Watch.noDraw_of_allows_memRead {a : Nat} (h : v.allows s ⟨.read, .mem a, w, d⟩ = true) :
    s.busDraws a w.bytes = 0 := by
  simpa using (Bool.and_eq_true_iff.mp h).2

/-- A dutiful register write is made while BUSY = 0, or is one that is honoured or ignored at any time (R61, R39). -/
theorem Watch.writeReg_of_allows {off : BitVec 8} (h : v.allows s ⟨.write, .reg off, w, d⟩ = true) :
    s.busy = false ∨ s.writeReg (regOfOffset off) d = s ∨ s.writeReg (regOfOffset off) d = s.clearStatus d ∨
      (off = 0x0C ∧ s.writeReg (regOfOffset off) d = s.writeCtrl d) := by
  obtain ⟨-, hduty⟩ := Bool.and_eq_true_iff.mp h
  rcases hr : regOfOffset off with _ | r
  · exact .inr (.inl rfl)
  cases r with
  | ctrl => exact .inr (.inr (.inr ⟨offset_of_regOfOffset hr, rfl⟩))
  | status => exact .inr (.inr (.inl rfl))
  | cmd | srcAddr | srcLen | dstAddr | dstCap | width | height | padLen =>
    simp only [hr, Bool.and_eq_true, Bool.not_eq_true'] at hduty
    tauto
  | id | memSize | maxDim | errCode | errInfo | dstLen | chunkCount => exact .inr (.inl rfl)

end

/-- A dutiful register write sets no OVR, and draws nothing unless it aborts a command (R184, R202, R223). -/
theorem Watch.writeReg_quiet {v : Watch} {s : State} {off : BitVec 8} {w : Width} {d : Word}
    (h : v.allows s ⟨.write, .reg off, w, d⟩ = true) :
    ((s.writeReg (regOfOffset off) d).ovr = true → s.ovr = true) ∧
      (¬ (s.busy = true ∧ off = 0x0C ∧ d.getLsbD 1 = true) → (s.writeReg (regOfOffset off) d).draws = s.draws) := by
  rcases Watch.writeReg_of_allows h with hb | hw | hw | ⟨rfl, hw⟩
  · exact ⟨(State.writeReg_of_idle hb _ d).1, fun _ => (State.writeReg_of_idle hb _ d).2⟩
  · rw [hw]
    exact ⟨fun h => h, fun _ => rfl⟩
  · rw [hw]
    exact ⟨fun h => (Bool.and_eq_true_iff.mp h).1, fun _ => rfl⟩
  · rw [hw]
    refine ⟨State.writeCtrl_ovr, fun hno => State.writeCtrl_draws ?_⟩
    cases hb : s.busy with
    | false => exact .inl rfl
    | true => exact .inr (Bool.eq_false_iff.mpr fun hv => hno ⟨hb, rfl, hv⟩)

/-- Settles O21: the port takes the access, and each of the four kinds neither sets OVR nor draws. -/
theorem dutifulHostNeverOverruns : Obligations.DutifulHostNeverOverruns := by
  intro v s t h
  have htaken := Watch.taken_of_allows h
  refine and_left_comm.mp ⟨State.hostAccess_response_of_taken htaken, ?_⟩
  obtain ⟨dir, off | a, w, d⟩ := t
  · obtain ⟨rfl, h4⟩ := (Txn.taken_reg ..).mp htaken
    cases dir with
    | read =>
      rw [State.hostAccess_regRead s off d h4]
      exact ⟨fun ho => (s.afterRead_ovr _).symm.trans ho, fun _ => s.afterRead_draws _⟩
    | write =>
      obtain ⟨hovr, hdraws⟩ := Watch.writeReg_quiet h
      rw [State.hostAccess_regWrite s off d h4]
      exact ⟨hovr, fun hno => hdraws fun ⟨hb, hoff, hv⟩ =>
        hno ⟨(State.busy_eq_true_iff s).mp hb, congrArg Target.reg hoff, rfl, hv⟩⟩
  · cases dir with
    | read =>
      rw [State.hostAccess_memRead s a w d htaken]
      exact ⟨fun ho => ho, fun _ => congrArg (s.draws + ·) (Watch.noDraw_of_allows_memRead h)⟩
    | write =>
      rw [State.hostAccess_memWrite_idle (Watch.idle_of_allows_memWrite h) htaken]
      exact ⟨fun ho => ho, fun _ => rfl⟩

end Sys2Proof.Machine
end

section
/-! Failures (60_exceptions.md): the completion every failing check takes (R196), the region checks with the values they record
(R192, R193), the illegal word (R191), the buffer memory after a failing step (R197), and code 7, which no step records
(R204). -/

namespace Sys2Proof.Machine

/-- Settles O22: `State.fail` is this update. -/
theorem failureCompletion : Obligations.FailureCompletion := fun _ _ _ => rfl

/-! ### The buffer memory after a failing step -/

/-- A step of the sequencer that fails its command leaves the memory as it is, unless a bad filter byte ended a row walk
(R196, R197). -/
theorem SequencerStep.mem_of_err {s t : State} (he : s.err = false) (hst : SequencerStep s t) (ht : t.err = true) :
    t.mem = s.mem ∨ t = s.tick.invalidFilter := by
  cases hst with
  | completes r =>
    cases r with
    | error f => exact .inl rfl
    | ok c => simp [State.finish_ok, he] at ht
  | badFilter => exact .inr rfl
  | starts => exact .inl rfl
  | row => simp [he] at ht

/-- Settles O58: the two kinds of failing step, one without stores, the other with free values in the output region. -/
theorem memoryAfterFailure : Obligations.MemoryAfterFailure := by
  intro s t h ht hs hterr
  have hb : s.phase ≠ .idle := (State.busy_eq_true_iff s).mp (State.turn_sequencer ht)
  obtain ⟨-, -, ⟨-, herr, -⟩, -⟩ := (State.inv_busy_iff hb).mp h
  rcases (sequencerStep_of_step h ht hs).mem_of_err herr hterr with hm | rfl
  · exact ⟨fun _ => hm, fun _ _ _ => by rw [hm]⟩
  · exact ⟨fun hc => absurd rfl hc, fun _ _ ha => s.tick.invalidFilter_read_outsideOutput ha⟩

/-! ### The error codes a step can record -/

/-- A completion records no code, or that of its failure (R196, R198). -/
theorem State.finish_errCode (s : State) {r : Except Failure Commit} (hr : ∀ f, r = .error f → f.raised = true) :
    (s.finish r).errCode = s.errCode ∨ ∃ f : Failure, f.raised = true ∧ (s.finish r).errCode = f.code := by
  cases r with
  | error f => exact .inr ⟨f, hr f rfl, rfl⟩
  | ok c => exact .inl rfl

/-- An instruction records no code, or one that a command may raise (R190). -/
theorem exec_errCode {i : Instr} {s t : State} (h : exec i s = .next t) :
    t.errCode = s.errCode ∨ ∃ f : Failure, f.raised = true ∧ t.errCode = f.code := by
  have hreg : ∀ d, checkRegions s.memSize.toNat s.latch = some d → d.raised = true := fun _ => checkRegions_raised
  have hsrc : ∀ d, checkSource s.memSize.toNat s.latch = some d → d.raised = true := fun _ => checkSource_raised
  cases i with
  | mapB2g => cases h; exact s.finish_errCode fun _ => mapB2gResult_raised
  | mapG2b => cases h; exact s.finish_errCode fun _ => mapG2bResult_raised
  | fltRecon =>
    rcases execFltRecon_next h with ⟨f, hf, rfl⟩ | ⟨-, rfl⟩
    · exact .inr ⟨f, fltCheck_raised hf, rfl⟩
    · exact .inl rfl
  | chkScan => cases h; exact s.finish_errCode fun _ => chunkResult_raised hreg fun _ _ => outputOf_raised
  | chkHdr => cases h; exact s.finish_errCode fun _ => chunkResult_raised hsrc fun _ _ => hdrOwn_raised
  | chkIdat => cases h; exact s.finish_errCode fun _ => chunkResult_raised hreg fun _ _ => idatOwn_raised
  | chkPlen => cases h; exact s.finish_errCode fun _ => chunkResult_raised hsrc fun _ _ => plenOwn_raised
  | chkInspad => cases h; exact s.finish_errCode fun _ => chunkResult_raised hreg fun _ _ => inspadOwn_raised
  | ftNone | ftSub | ftUp | ftAverage | ftPaeth => obtain ⟨-, rfl⟩ := reconstructRow_next h; exact .inl rfl

@[simp] theorem State.afterRead_errCode (s : State) (r : Option Reg) : (s.afterRead r).errCode = s.errCode := by
  rcases s.afterRead_cases r with h | ⟨h, -, -⟩
  · rw [h]
  · rw [h, State.observe_errCode]

@[simp] theorem State.takeInterrupt_errCode (s : State) : s.takeInterrupt.errCode = s.errCode := by
  rcases s.takeInterrupt_cases with h | ⟨h, -, -⟩
  · rw [h]
  · rw [h, State.observe_errCode]

@[simp] theorem State.readBuffer_errCode (s : State) (a : Nat) (w : Width) : (s.readBuffer a w).errCode = s.errCode := rfl

@[simp] theorem State.writeBuffer_errCode (s : State) (a : Nat) (w : Width) (v : Word) :
    (s.writeBuffer a w v).errCode = s.errCode := by
  unfold State.writeBuffer
  cases hb : s.busy with
  | true => rw [State.ifIdle_busy hb, State.overrun_errCode]
  | false => rw [State.ifIdle_idle hb]

/-- A register write leaves ERR_CODE, or clears it: an acceptance or a soft reset (10_state.md R28, R42). -/
theorem State.writeReg_errCode (s : State) (r : Option Reg) (v : Word) :
    (s.writeReg r v).errCode = s.errCode ∨ (s.writeReg r v).errCode = .none := by
  rcases s.writeReg_cases r v with h | h | h | h | h | ⟨-, h | h | h | h | h | h | h | h⟩ <;> simp [h]

theorem State.hostAccess_errCode (s : State) (t : Txn) :
    (s.hostAccess t).errCode = s.errCode ∨ (s.hostAccess t).errCode = .none := by
  rcases s.hostAccess_cases t with h | ⟨r, v, h⟩ | ⟨r, v, h⟩ | ⟨a, w, -, -, h⟩ | ⟨a, w, v, -, h⟩
  · simp [h]
  · simp [h]
  · simpa [h] using s.writeReg_errCode r v
  · simp [h]
  · simp [h]

/-- An event of the host leaves ERR_CODE, or clears it. -/
theorem State.hostEvent_errCode (s : State) (e : HostEvent) :
    (s.hostEvent e).errCode = s.errCode ∨ (s.hostEvent e).errCode = .none := by
  cases e with
  | access t => exact State.hostAccess_errCode { s with justAccepted := false } t
  | interrupt => exact .inl s.takeInterrupt_errCode

/-- A step, whoever makes it, leaves ERR_CODE as it is or records a code other than 7 (R204). -/
theorem step_errCode {s t : State} (h : step s = .next t) :
    t.errCode = s.errCode ∨ t.errCode ≠ .decompressionFailure := by
  rcases step_cases h with ⟨-, rfl⟩ | ⟨p, rest, -, rfl⟩ | ⟨-, i, -, hi⟩ | ⟨-, -, rfl⟩ | ⟨-, -, rfl⟩ | ⟨-, -, rfl⟩
  · exact .inl rfl
  · exact (State.hostEvent_errCode { s with host := rest } p.event).imp_right fun hn => by simp [hn]
  · exact (exec_errCode hi).imp_right fun ⟨f, hf, hc⟩ => hc ▸ (Failure.raised_iff.mp hf).2
  · exact .inr (by simp [State.illegalCommand])
  · exact .inr (by simp [State.invalidFilter])
  · exact .inl rfl

/-- Settles O60: a step keeps the code or records another than 7. -/
theorem decompressionFailureNeverRaised : Obligations.DecompressionFailureNeverRaised := by
  intro s t hs h
  rcases step_errCode h with hc | hc
  · rwa [hc]
  · exact hc

/-! ### The illegal word -/

/-- The step with a latched word that is refused (R191). -/
theorem step_of_illegal {s : State} {e : Reject} (ht : s.turn = .sequencer) (hp : s.phase = .command)
    (hd : decodeCommand s.latch.word = .error e) : step s = .next (s.tick.illegalCommand s.latch.word) := by
  have hf : fetch s = .illegal s.latch.word := by simp only [fetch, hp, hd]
  simp only [step, ht, hf]

/-- Settles O6: a word that encodes nothing is refused. -/
theorem illegalWordFails : Obligations.IllegalWordFails :=
  fun _ ht hp hw => step_of_illegal ht hp (decodeCommand_of_not_encoding hw)

/-! ### The region checks -/

theorem inRange_eq_false {size a n : Nat} : inRange size a n = false ↔ n ≠ 0 ∧ size < a + n := by
  simp [inRange]

theorem regionsOverlap_eq_true {sa sl da dl : Nat} :
    regionsOverlap sa sl da dl = true ↔ 0 < sl ∧ 0 < dl ∧ sa < da + dl ∧ da < sa + sl := by
  simp only [regionsOverlap, Bool.and_eq_true, decide_eq_true_eq, and_assoc]

section

variable {size : Nat} {o : Latch}

theorem checkSource_of_src (hsrc : o.srcInRange size = false) : checkSource size o = some ⟨.regionRange, 0⟩ := by
  simp [checkSource, hsrc]

theorem checkRegions_of_src (hsrc : o.srcInRange size = false) : checkRegions size o = some ⟨.regionRange, 0⟩ := by
  simp [checkRegions, hsrc]

theorem checkRegions_of_dst (hsrc : o.srcInRange size = true) (hdst : o.dstInRange size = false) :
    checkRegions size o = some ⟨.regionRange, 1⟩ := by
  simp [checkRegions, hsrc, hdst]

theorem checkRegions_of_overlap (hsrc : o.srcInRange size = true) (hdst : o.dstInRange size = true)
    (hover : o.overlap = true) : checkRegions size o = some ⟨.regionOverlap, 0⟩ := by
  simp [checkRegions, hsrc, hdst, hover]

end

/-- A chunk command whose region check fails ends with that failure (42_chunk.md R150). -/
theorem chunkResult_of_check {f : ContainerFormat} {c : List Byte} {own : List Chunk → Except Failure Commit} (e : Failure) :
    chunkResult f (some e) c own = .error e := rfl

section

variable {s : State} {i : Instr} {f : Failure}

/-- One of the six commands with output fails with the first failure of its region checks (R192, R193, R195). -/
theorem exec_of_checkRegions (hi : i ∈ [Instr.mapB2g, .mapG2b, .fltRecon, .chkScan, .chkIdat, .chkInspad])
    (h : checkRegions s.memSize.toNat s.latch = some f) : exec i s = .next (s.fail f) := by
  simp only [List.mem_cons, List.not_mem_nil, or_false] at hi
  rcases hi with rfl | rfl | rfl | rfl | rfl | rfl
  · rw [exec, execMapB2g, mapB2gResult, h, State.finish_error]
  · rw [exec, execMapG2b, mapG2bResult, h, State.finish_error]
  · exact exec_fltRecon_of_fails (by rw [fltCheck, h])
  · rw [exec, execChkScan, chkScanResult, h, chunkResult_of_check, State.finish_error]
  · rw [exec, execChkIdat, chkIdatResult, h, chunkResult_of_check, State.finish_error]
  · rw [exec, execChkInspad, chkInspadResult, h, chunkResult_of_check, State.finish_error]

/-- CHK_HDR and CHK_PLEN fail with their source check alone (R192). -/
theorem exec_of_checkSource (hi : i ∈ [Instr.chkHdr, .chkPlen]) (h : checkSource s.memSize.toNat s.latch = some f) :
    exec i s = .next (s.fail f) := by
  simp only [List.mem_cons, List.not_mem_nil, or_false] at hi
  rcases hi with rfl | rfl
  · rw [exec, execChkHdr, chkHdrResult, h, chunkResult_of_check, State.finish_error]
  · rw [exec, execChkPlen, chkPlenResult, h, chunkResult_of_check, State.finish_error]

/-- A source out of range fails any of the eight commands (R192). -/
theorem exec_of_srcOutOfRange
    (hi : i ∈ [Instr.mapB2g, .mapG2b, .fltRecon, .chkScan, .chkHdr, .chkIdat, .chkPlen, .chkInspad])
    (hsrc : s.latch.srcInRange s.memSize.toNat = false) : exec i s = .next (s.fail ⟨.regionRange, 0⟩) := by
  by_cases hno : i ∈ [Instr.chkHdr, .chkPlen]
  · exact exec_of_checkSource hno (checkSource_of_src hsrc)
  · refine exec_of_checkRegions ?_ (checkRegions_of_src hsrc)
    simp only [List.mem_cons, List.not_mem_nil, or_false] at hi hno ⊢
    tauto

/-- A completion without output bytes depends on no latch. -/
theorem State.finish_latch_of_out_nil {r : Except Failure Commit} (h : ∀ c, r = .ok c → c.out = []) (o : Latch) :
    State.finish { s with latch := o } r = s.finish r := by
  cases r with
  | error f => rfl
  | ok c => simp [State.finish_ok, State.commit, State.retire, h c rfl]

/-- CHK_HDR and CHK_PLEN read no destination operand (10_state.md R47, R192). -/
theorem exec_of_no_output (hi : i ∈ [Instr.chkHdr, .chkPlen]) (da dc : Word) :
    exec i { s with latch := { s.latch with dstAddr := da, dstCap := dc } } = exec i s := by
  simp only [List.mem_cons, List.not_mem_nil, or_false] at hi
  rcases hi with rfl | rfl
  · exact congrArg Host.Outcome.next (State.finish_latch_of_out_nil (fun _ => chkHdrResult_out) _)
  · exact congrArg Host.Outcome.next (State.finish_latch_of_out_nil (fun _ => chkPlenResult_out) _)

end

/-- Settles O23: the source check of all eight commands, the destination check of six. -/
theorem regionRangeChecks : Obligations.RegionRangeChecks := by
  intro s i
  refine ⟨fun hi hlen hsrc => ?_, fun hi hsrc hcap hdst => ?_, exec_of_no_output⟩
  · exact exec_of_srcOutOfRange hi (inRange_eq_false.mpr ⟨hlen, hsrc⟩)
  · exact exec_of_checkRegions hi (checkRegions_of_dst (inRange_eq_true.mpr hsrc) (inRange_eq_false.mpr ⟨hcap, hdst⟩))

/-- Settles O24: both regions are in range and share a byte. -/
theorem regionOverlapCheck : Obligations.RegionOverlapCheck := by
  intro s i hi hsrc hdst hlen hcap hlo hhi
  have hover : s.latch.overlap = true := regionsOverlap_eq_true.mpr ⟨hlen, hcap, hlo, hhi⟩
  exact exec_of_checkRegions hi
    (checkRegions_of_overlap (inRange_eq_true.mpr (.inr hsrc)) (inRange_eq_true.mpr (.inr hdst)) hover)

end Sys2Proof.Machine
end

section
/-! Reset (70_reset_and_hazards.md R220 to R223): what power-on reset leaves, and what a soft reset, a write of 1 to CTRL.SRST,
leaves of an idle and of a busy machine. -/

namespace Sys2Proof.Machine

/-! ### Soft reset -/

/-- A write of 1 to CTRL.SRST is the soft reset, whatever the other bits are (R222; log 16). -/
theorem State.hostAccess_writeSrst (s : State) {v : Word} (hv : v.getLsbD 1 = true) :
    s.hostAccess ⟨.write, .reg 0x0C, .w32, v⟩ = s.softReset.respond .ack := by
  rw [State.hostAccess_writeCtrl, State.writeCtrl, if_pos hv]

/-- A soft reset with nothing to abort writes no buffer byte (R222). -/
theorem State.softReset_mem_of_abort {s : State} (h : s.abort = s) : s.softReset.mem = s.mem := by
  rw [State.softReset_mem, h]

/-- A command without a destination region leaves no free value when it is aborted (R223). -/
theorem State.abort_of_no_destination {s : State} (h : hasDestination s.latch.word = false) : s.abort = s := by
  simp [State.abort, h]

/-- CHK_HDR and CHK_PLEN have no destination region (10_state.md R47). -/
theorem hasDestination_of_chkHdr_chkPlen {w : Word}
    (h : decodeCommand w = .ok .chkHdr ∨ decodeCommand w = .ok .chkPlen) : hasDestination w = false := by
  rcases h with h | h
  · rw [hasDestination, h]
  · rw [hasDestination, h]

/-- Settles O19: the soft reset's memory is the abort's, which free values leave outside the latched destination region. -/
theorem softResetAborts : Obligations.SoftResetAborts := by
  intro s v _ hv
  refine ⟨_, s.hostAccess_writeSrst hv, rfl, rfl, rfl, rfl, rfl, rfl, rfl, rfl, rfl, s.abort_read_outside, fun hd => ?_⟩
  exact State.softReset_mem_of_abort (State.abort_of_no_destination (hasDestination_of_chkHdr_chkPlen hd))

/-- After a soft reset a register reads its reset value: three are constants, the others are reset, and no old result is left
to be read (R222; log 15). -/
theorem State.softReset_readReg {s : State} (hid : s.id = State.reset.id) (hsize : s.memSize = State.reset.memSize)
    (hmax : s.maxDim = State.reset.maxDim) (r : Reg) :
    s.softReset.readReg (some r) = State.reset.readReg (some r) := by
  cases r with
  | id => exact hid
  | memSize => exact hsize
  | maxDim => exact hmax
  | ctrl | cmd | status | errCode | errInfo | srcAddr | srcLen | dstAddr | dstCap | dstLen | width | height | padLen
    | chunkCount => rfl

theorem State.constantsOk_iff {s : State} :
    s.constantsOk = true ↔
      s.id = State.reset.id ∧ s.maxDim = State.reset.maxDim ∧ s.format.wellFormed = true := by
  simp only [State.constantsOk, Bool.and_eq_true, beq_iff_eq, and_assoc]
  rfl

/-- Settles O18: the constants are those of the invariant, and an idle machine has nothing to abort. -/
theorem softResetRegisters : Obligations.SoftResetRegisters := by
  intro s v h hsize hv
  obtain ⟨-, hconst, -⟩ := State.inv_iff.mp h
  obtain ⟨hid, hmax, -⟩ := State.constantsOk_iff.mp hconst
  refine ⟨_, s.hostAccess_writeSrst hv, State.softReset_readReg hid hsize hmax, rfl, rfl, rfl, rfl, fun hp => ?_⟩
  exact State.softReset_mem_of_abort (State.abort_of_idle ((State.busy_eq_false_iff s).mpr hp))

/-! ### Power-on reset -/

/-- MEM_SIZE holds MEM_BYTES exactly (10_state.md R23). -/
theorem State.reset_memSize_toNat : State.reset.memSize.toNat = Config.memBytes := by
  have hle := Config_memBytes_bounds.2
  exact (BitVec.toNat_ofNat _ _).trans (Nat.mod_eq_of_lt (by omega))

/-- A register that holds no constant reads 0 after power-on reset (R220). -/
theorem State.reset_readReg_eq_zero {r : Reg} (hid : r ≠ .id) (hsize : r ≠ .memSize) (hmax : r ≠ .maxDim) :
    State.reset.readReg (some r) = 0 := by
  cases r with
  | id => exact absurd rfl hid
  | memSize => exact absurd rfl hsize
  | maxDim => exact absurd rfl hmax
  | ctrl | cmd | status | errCode | errInfo | srcAddr | srcLen | dstAddr | dstCap | dstLen | width | height | padLen
    | chunkCount => rfl

/-- Settles O9: three registers hold constants, the others 0, and with no command and no host event nobody moves. -/
theorem powerOnReset : Obligations.PowerOnReset := by
  obtain ⟨hmin, hmax⟩ := Config_memBytes_bounds
  exact ⟨rfl, ⟨hmin, hmax, State.reset_memSize_toNat⟩, rfl, fun _ => State.reset_readReg_eq_zero, rfl, rfl, rfl, rfl⟩

/-- Settles O52: no byte is written, MEM_BYTES is of an admissible size, the default tags are admissible, and an idle machine
holds nothing. -/
theorem invariantAtReset : Obligations.InvariantAtReset := by
  have hmem : State.reset.memoryOk = true := by
    rw [State.memoryOk_iff, State.reset_memSize_toNat]
    exact ⟨State.reset_mem_wf _, Config_memBytes_bounds⟩
  have hformat : State.reset.format.wellFormed = true := by decide
  exact (State.inv_idle_iff rfl).mpr
    ⟨hmem, State.constantsOk_iff.mpr ⟨rfl, rfl, hformat⟩, ⟨nofun, nofun⟩, rfl, rfl,
      State.acceptedOk_of_not_justAccepted rfl⟩

end Sys2Proof.Machine
end
